-- ==== Sys2Proof/Word.lean ====
section
/-! DEFINITION. The words of the block: one window cell (00_scope.md R10, 30_encoding.md R50) and
one command word (30_encoding.md R58). -/

namespace Sys2Proof

/-- One window cell, the `Sym` of 00_scope.md R10: `SYM_W = 8` bits (R7). -/
abbrev Symbol := BitVec 8

/-- One command word, 11 bits (30_encoding.md R58). -/
abbrev CmdWord := BitVec 11

/-- `SYM0`, the bit symbol '0' (30_encoding.md R50). -/
def sym0 : Symbol := 0x00

/-- `SYM1`, the bit symbol '1' (30_encoding.md R50). -/
def sym1 : Symbol := 0x01

/-- `isbit(s)` of 00_scope.md R10; every other value is a non-bit symbol (30_encoding.md R52). -/
def isBit (x : Symbol) : Bool := x == sym0 || x == sym1

/-- `bitval(s)` of 30_encoding.md R51: a non-bit symbol has no bit value. -/
def bitval (x : Symbol) : Option (BitVec 1) :=
  if x = sym0 then some 0 else if x = sym1 then some 1 else none

end Sys2Proof
end

