-- ==== Sys2Proof/Config.lean ====
section
/-! DEFINITION. What is fixed for the block and not state (10_state.md R29): the protocol constants
(00_scope.md R7), the external decoder (43_dispatch.md R110) and the sinks' answers (R113). -/

namespace Sys2Proof

/-- The three protocol constants of 00_scope.md R7: window capacity, sync pattern, and the number of
symbols skipped after the pattern. The rules hold for any values (R9); no operation changes them. -/
structure Params where
  /-- `N`, the window capacity in symbols. -/
  cap : Nat
  /-- `PAT`, the sync pattern, first character first. -/
  pat : List Symbol
  /-- `G`, the symbols skipped after the pattern. -/
  gap : Nat
  deriving DecidableEq, Repr

/-- `P`, the length of the pattern. -/
def Params.patLen (p : Params) : Nat := p.pat.length

/-- `SKIP = P + G`, the snapshot index of the first candidate symbol. -/
def Params.skip (p : Params) : Nat := p.patLen + p.gap

/-- `CANDMAX = N - SKIP`, the largest candidate length. -/
def Params.candMax (p : Params) : Nat := p.cap - p.skip

/-- The reference values of 00_scope.md R7; the pattern symbol by symbol is 30_encoding.md R55. -/
def Params.reference : Params where
  cap := 256
  pat := [sym1, sym0, sym1, sym0, sym1, sym0, sym1, sym1, sym1, sym0, sym0, sym0, sym1, sym0, sym0,
    sym1, sym0]
  gap := 6

/-- The eight fields of a decoded result in the log's column order (43_dispatch.md R117). Their types
and encodings are not given (R117, 91_not_in_source.md N8): each is an uninterpreted code, which the
block copies and never inspects. DESIGN CHOICE (log 6), unsafe only for a claim about a field's type. -/
structure Fields where
  unitAddress : Nat
  pressure : Nat
  motion : Nat
  markerLight : Nat
  turbine : Nat
  batteryCond : Nat
  batteryCharge : Nat
  armStatus : Nat
  deriving DecidableEq, Repr, Inhabited

/-- The decoder's answer: a validity flag and the fields (43_dispatch.md R110). -/
structure DecodeResult where
  valid : Bool
  fields : Fields
  deriving DecidableEq, Repr, Inhabited

/-- What a step takes from outside the state (10_state.md R29): the constants, the decoder `DEC`, and
the sinks' two-bit answers, one for each valid dispatch in order. -/
structure Env where
  params : Params
  dec : List Symbol → DecodeResult
  sinks : Nat → BitVec 2

/-- `DEC`, OPEN (00_scope.md R7, 43_dispatch.md R110): a pure total function of the candidate and
nothing else is known of it. Free value (log 3), safe. -/
opaque Config.dec : List Symbol → DecodeResult

/-- `sink_ok` of the n-th valid dispatch, `[0] = con_ok`, `[1] = log_ok` (43_dispatch.md R113): any
value, drawn afresh each time (93 U9). Free value (log 4), safe. -/
opaque Config.sinkOk : Nat → BitVec 2

/-- The environment of the block as specified: the reference constants, the free decoder, the free
sink answers. -/
def Config.env : Env where
  params := Params.reference
  dec := Config.dec
  sinks := Config.sinkOk

end Sys2Proof
end

