-- ==== Sys2Proof/Machine/State.lean ====
section
/-! DEFINITION. The state of the block (10_state.md R13), its reset value (R31), and the names under
which a step could stop. -/

namespace Sys2Proof.Machine

/-- The window as the sequence `W = win[0..len)`, oldest symbol first (00_scope.md R10,
20_memory.md R39: the abstract sequence is normative). A list holds exactly the cells below `len`: a cell
at or beyond `len` has no value, as 10_state.md R14 asks. -/
abbrev Window := List Symbol

/-- The cause of a halt (60_exceptions.md R126). Code 3 is reserved and never produced, so it has no
constructor (93 U11). -/
inductive ErrCause where
  /-- `E_NONE`, code 0. -/
  | eNone
  /-- `E_SRC`, code 1: the symbol source failed. -/
  | eSrc
  /-- `E_SINK`, code 2: a sink failed on a valid result. -/
  | eSink
  deriving DecidableEq, Repr

/-- The two-bit code of the `err` port (60_exceptions.md R126). -/
def ErrCause.code : ErrCause → BitVec 2
  | .eNone => 0
  | .eSrc => 1
  | .eSink => 2

/-- The dispatch loop's state (10_state.md R23). -/
inductive Phase where
  /-- `ACC = 0`, accumulating. -/
  | acc
  /-- `DISP = 1`, dispatching. -/
  | disp
  deriving DecidableEq, Repr

/-- The bit of `phase` (10_state.md R13). -/
def Phase.code : Phase → BitVec 1
  | .acc => 0
  | .disp => 1

/-- The output events (10_state.md R24). -/
inductive Event where
  /-- `CAND(T, c)`: candidate `c` was handed to the decoder at arrival `T`. -/
  | cand (t : Nat) (c : List Symbol)
  /-- `REPORT(f)`: console block for fields `f`. -/
  | report (f : Fields)
  /-- `LOG(f)`: one log row for fields `f`. -/
  | log (f : Fields)
  /-- `HALT(e)`: the block halted with cause `e`. -/
  | halt (e : ErrCause)
  deriving DecidableEq, Repr

/-- The state of 10_state.md R13, and after it the model's own two fields, which stand for the
environment and not for the block. -/
structure State where
  /-- `win`, of which `len` is the length (10_state.md R14, R15). -/
  win : Window
  /-- `T`, ghost: symbols pushed since reset, unbounded (10_state.md R22). -/
  total : Nat
  /-- `halted` (10_state.md R25). -/
  halted : Bool
  /-- `err` (10_state.md R25, 60_exceptions.md R126). -/
  err : ErrCause
  /-- `phase` (10_state.md R23). -/
  phase : Phase
  /-- `out`, ghost: the events since reset, oldest first (10_state.md R24). -/
  out : List Event
  /-- MODEL'S OWN: the words the environment will present on `cmd`, next first (log 1). -/
  cmds : List CmdWord
  /-- MODEL'S OWN: how many sink answers have been drawn (log 4). -/
  draws : Nat
  deriving DecidableEq, Repr

/-- `len`, the fill count (10_state.md R15). -/
def State.len (s : State) : Nat := s.win.length

/-- Why a read of the model stops. -/
inductive Fault where
  /-- Raised by `readCell` alone: the cell's index is not below `len`, so it holds no value
  (10_state.md R14, 93 U3). No command reads such a cell. Safe. -/
  | cellHoldsNoValue (index : Nat)
  deriving DecidableEq, Repr

/-- Why a command has no meaning in the model. -/
inductive Refusal where
  /-- A command without a meaning in the model; no arm of `exec` answers it. Safe. -/
  | notModelled (mnemonic : String)
  deriving DecidableEq, Repr

/-- The block right after reset (10_state.md R31, 70_reset_and_hazards.md R150, R151). The window holds
nothing; `cmds` and `draws` are DESIGN CHOICE (log 1, log 4). -/
def State.reset : State where
  win := []
  total := 0
  halted := false
  err := .eNone
  phase := .acc
  out := []
  cmds := []
  draws := 0

end Sys2Proof.Machine
end

