-- ==== Sys2Proof/Machine/Flags.lean ====
section
/-! DEFINITION. What a step computes from its snapshot: `match` (41_sync_matcher.md R86) and the candidate
with its length (42_delimiter.md R97). They are functions of the snapshot, not registers (10_state.md R21). -/

namespace Sys2Proof.Machine

/-- CHECK: does the sync pattern stand at position 0 of the snapshot? (41_sync_matcher.md R86.) A snapshot
shorter than the pattern is no match (R85). -/
def check (p : Params) (S : List Symbol) : Bool := decide (S.take p.patLen = p.pat)

/-- EXTRACT: the candidate of a matching step, `drop SKIP S` (42_delimiter.md R97). -/
def extract (p : Params) (S : List Symbol) : List Symbol := S.drop p.skip

/-- `cand_len = |S| -. SKIP` (42_delimiter.md R97, R99). -/
def candLen (p : Params) (S : List Symbol) : Nat := S.length - p.skip

end Sys2Proof.Machine
end

