-- ==== Sys2Proof/Syntax.lean ====
section
/-! DEFINITION. The commands of the block (30_encoding.md R59, spec/opcode_table.json). -/

namespace Sys2Proof

/-- One constructor per mnemonic of the operation map (30_encoding.md R59). The table splits `PUSHX`
into seven disjoint rows of one meaning, which are the values of one operand here (log 16). The
don't-care bits of a word are ignored (R62), so they are no operand. -/
inductive Instr where
  /-- Process restart (70_reset_and_hazards.md R150). -/
  | reset
  /-- The symbol source failed (60_exceptions.md R127). -/
  | fail
  /-- No symbol this step (40_window.md R71). -/
  | nop
  /-- STEP with the bit symbol '0' (43_dispatch.md R107). -/
  | push0
  /-- STEP with the bit symbol '1' (43_dispatch.md R107). -/
  | push1
  /-- STEP with a non-bit symbol, `sym >= 2` (43_dispatch.md R107). -/
  | pushx (sym : Symbol)
  deriving DecidableEq, Repr

/-- The mnemonic of spec/opcode_table.json, letter for letter. -/
def Instr.mnemonic : Instr → String
  | .reset => "RESET"
  | .fail => "FAIL"
  | .nop => "NOP"
  | .push0 => "PUSH0"
  | .push1 => "PUSH1"
  | .pushx _ => "PUSHX"

end Sys2Proof
end

