-- ==== Sys2Proof/Machine/Operands.lean ====
section
/-! DEFINITION. The operands of the commands: the symbol a command pushes (30_encoding.md R51,
40_window.md R74) and the two sink answers a dispatch samples (30_encoding.md R57). -/

namespace Sys2Proof.Machine

/-- The symbol a command pushes (40_window.md R74); `none` for a command that pushes nothing. -/
def operand : Instr → Option Symbol
  | .push0 => some sym0
  | .push1 => some sym1
  | .pushx x => some x
  | .reset => none
  | .fail => none
  | .nop => none

/-- `con_ok = sink_ok[0]` (30_encoding.md R57, 43_dispatch.md R113). -/
def conOk (ok : BitVec 2) : Bool := ok.getLsbD 0

/-- `log_ok = sink_ok[1]` (30_encoding.md R57, 43_dispatch.md R113). -/
def logOk (ok : BitVec 2) : Bool := ok.getLsbD 1

end Sys2Proof.Machine
end

