-- ==== Sys2Proof/Machine/Ops.lean ====
section
/-! DEFINITION. The shared operations: the window (40_window.md), the halt and the restart
(60_exceptions.md R131, 70_reset_and_hazards.md R150), DISPATCH and STEP (43_dispatch.md). -/

namespace Sys2Proof.Machine

/-- The canonical form of the window: at most `N` symbols held (10_state.md R15). -/
def Memory.wf (cap : Nat) (w : Window) : Bool := decide (w.length ≤ cap)

/-- Window cell `i`, a fault when it holds no value (10_state.md R14, 93 U3). -/
def readCell (s : State) (i : Nat) : Except Fault Symbol :=
  match s.win[i]? with
  | some x => .ok x
  | none => .error (.cellHoldsNoValue i)

/-- PUSH on the sequence `W`: append, then discard the oldest on overflow (40_window.md R72). -/
def pushWindow (cap : Nat) (w : Window) (x : Symbol) : Window :=
  if cap < (w ++ [x]).length then (w ++ [x]).drop 1 else w ++ [x]

/-- PUSH: the window and the count of arrivals (40_window.md R72). -/
def pushSym (p : Params) (x : Symbol) (s : State) : State :=
  { s with win := pushWindow p.cap s.win x, total := s.total + 1 }

/-- SNAPSHOT: the whole window, oldest first (40_window.md R75). -/
def snapshot (s : State) : List Symbol := s.win

/-- `ready` (43_dispatch.md R119). -/
def ready (s : State) : Bool := s.phase == .acc && !s.halted

/-- `emit E` (00_scope.md R10). -/
def emit (ev : Event) (s : State) : State := { s with out := s.out ++ [ev] }

/-- `phase <- ph` (43_dispatch.md R107, lines 5 and 8). -/
def setPhase (ph : Phase) (s : State) : State := { s with phase := ph }

/-- The sinks have answered one dispatch: the next answer is a new one (93 U9). -/
def drawSink (s : State) : State := { s with draws := s.draws + 1 }

/-- Taking an exception: halt entry on a fatal cause (60_exceptions.md R131). Nothing is saved and
there is no handler. A cause raised while halted is ignored (R127, R133). -/
def raiseHalt (cause : ErrCause) (s : State) : State :=
  if s.halted then s
  else emit (.halt cause) { s with halted := true, err := cause, phase := .acc }

/-- The only way out of a halt: process restart (70_reset_and_hazards.md R150, 60_exceptions.md R133).
The environment's own fields are not the block's and stay. -/
def restart (s : State) : State :=
  { s with win := [], total := 0, halted := false, err := .eNone, phase := .acc, out := [] }

/-- The reporting half of DISPATCH, for a valid result: console first, then the log, either one halting
the block when it fails (43_dispatch.md R111, R113, 60_exceptions.md R129). -/
def reportResult (ok : BitVec 2) (f : Fields) (s : State) : State :=
  if conOk ok then
    if logOk ok then emit (.log f) (emit (.report f) s)
    else raiseHalt .eSink (emit (.report f) s)
  else raiseHalt .eSink s

/-- DISPATCH `(T, c)`: one decoder call; an invalid result is dropped silently, a valid one goes to the
sinks (43_dispatch.md R111, R112, R113). -/
def dispatch (e : Env) (t : Nat) (c : List Symbol) (s : State) : State :=
  if (e.dec c).valid then
    reportResult (e.sinks s.draws) (e.dec c).fields (drawSink (emit (.cand t c) s))
  else emit (.cand t c) s

/-- Lines 2 to 8 of STEP, after its push (43_dispatch.md R107). -/
def checkAndDispatch (e : Env) (s : State) : State :=
  if check e.params (snapshot s) then
    setPhase .acc (dispatch e s.total (extract e.params (snapshot s)) (setPhase .disp s))
  else s

/-- STEP `x`: the whole per-symbol procedure (43_dispatch.md R107). A push that is not accepted has no
effect (R119, 60_exceptions.md R132). -/
def stepSym (e : Env) (x : Symbol) (s : State) : State :=
  if ready s then checkAndDispatch e (pushSym e.params x s) else s

end Sys2Proof.Machine
end

