-- ==== Sys2Proof/Machine/Control.lean ====
section
/-! DEFINITION. The commands that push nothing: `RESET`, `FAIL`, `NOP`. -/

namespace Sys2Proof.Machine

/-- `RESET`: accepted in every state (70_reset_and_hazards.md R150). -/
def execReset (s : State) : Host.Outcome State Fault Refusal := .next (restart s)

/-- `FAIL`: halts with `E_SRC`; accepted only when ready (60_exceptions.md R127, 43_dispatch.md R119). -/
def execFail (s : State) : Host.Outcome State Fault Refusal :=
  .next (if ready s then raiseHalt .eSrc s else s)

/-- `NOP`: every state element keeps its value (40_window.md R71). -/
def execNop (s : State) : Host.Outcome State Fault Refusal := .next s

end Sys2Proof.Machine
end

