-- ==== Sys2Proof/Machine/Push.lean ====
section
/-! DEFINITION. The commands that push a symbol (43_dispatch.md R107); they differ in nothing but the value
stored (40_window.md R74). -/

namespace Sys2Proof.Machine

/-- `PUSH0`: STEP with `SYM0` (40_window.md R74). -/
def execPush0 (s : State) : Host.Outcome State Fault Refusal := .next (stepSym Config.env sym0 s)

/-- `PUSH1`: STEP with `SYM1` (40_window.md R74). -/
def execPush1 (s : State) : Host.Outcome State Fault Refusal := .next (stepSym Config.env sym1 s)

/-- `PUSHX #hh`: STEP with the byte `hh` (40_window.md R74, 30_encoding.md R52). -/
def execPushx (x : Symbol) (s : State) : Host.Outcome State Fault Refusal :=
  .next (stepSym Config.env x s)

end Sys2Proof.Machine
end

