-- ==== Sys2Proof/Machine/Dispatch.lean ====
section
/-! DEFINITION. The meaning of each command (30_encoding.md R59). -/

namespace Sys2Proof.Machine

def exec (i : Instr) (s : State) : Host.Outcome State Fault Refusal :=
  match i with
  | .reset => Sys2Proof.Machine.execReset s
  | .fail => Sys2Proof.Machine.execFail s
  | .nop => Sys2Proof.Machine.execNop s
  | .push0 => Sys2Proof.Machine.execPush0 s
  | .push1 => Sys2Proof.Machine.execPush1 s
  | .pushx sym => Sys2Proof.Machine.execPushx sym s

end Sys2Proof.Machine
end

