-- ==== Sys2Proof/WellFormed.lean ====
section
/-! DEFINITION. Well-formed commands (30_encoding.md R59) and well-formed parameters (00_scope.md R9). -/

namespace Sys2Proof

/-- `PUSHX` carries a byte of 2 or more: 0 and 1 are `PUSH0` and `PUSH1` (30_encoding.md R59). -/
def Instr.wf : Instr → Bool
  | .pushx x => !isBit x
  | _ => true

/-- Why a choice of parameters is declined (93_implementation_defined.md U15, U16). -/
inductive ParamProblem where
  /-- `N = 0`: the rules are stated for `N >= 1` (00_scope.md R9). Safe. -/
  | capacityZero
  /-- `P = 0`: the rules are stated for `P >= 1` (00_scope.md R9). Safe. -/
  | patternEmpty
  deriving DecidableEq, Repr

/-- The parameters a model declines (00_scope.md R9, 93 U16). A pattern longer than the window is legal
and never matches (U16; U15 says otherwise, log 9). -/
def Params.problem (p : Params) : Option ParamProblem :=
  if p.cap = 0 then some .capacityZero
  else if p.patLen = 0 then some .patternEmpty
  else none

/-- Parameters the rules are stated for (00_scope.md R9). -/
def Params.wf (p : Params) : Bool := p.problem == none

/-- A match is possible only if `N >= P` (00_scope.md R9). -/
def Params.canMatch (p : Params) : Bool := decide (p.patLen ≤ p.cap)

/-- A body of `L` symbols is visible whole at a steady-state match (00_scope.md R9, R165). `L_BODY` is
OPEN and used by no operation, so it is an argument here. -/
def Params.bodyVisible (p : Params) (L : Nat) : Bool := decide (p.skip + L ≤ p.cap)

end Sys2Proof
end

