-- ==== Sys2Proof/Decode.lean ====
section
/-! DEFINITION. From command words to commands and back (30_encoding.md R58 to R62,
spec/opcode_table.json). -/

namespace Sys2Proof

/-- `cmd[10]`, `rst` (30_encoding.md R58). -/
def rstBit (w : CmdWord) : Bool := w.getLsbD 10

/-- `cmd[9]`, `src_fail` (30_encoding.md R58). -/
def srcFailBit (w : CmdWord) : Bool := w.getLsbD 9

/-- `cmd[8]`, `sym_valid` (30_encoding.md R58). -/
def symValidBit (w : CmdWord) : Bool := w.getLsbD 8

/-- `cmd[7:0]`, `sym`, taken whole (30_encoding.md R51, R58). -/
def symField (w : CmdWord) : Symbol := w.extractLsb' 0 8

/-- The push command of a symbol byte (30_encoding.md R59, R66). -/
def decodeSym (x : Symbol) : Instr :=
  if x = sym0 then .push0 else if x = sym1 then .push1 else .pushx x

/-- The command a word selects: total, `rst` over `src_fail` over `sym_valid`
(30_encoding.md R59, R60, R62). -/
def decode (w : CmdWord) : Instr :=
  if rstBit w then .reset
  else if srcFailBit w then .fail
  else if symValidBit w then decodeSym (symField w)
  else .nop

/-- Why bits are no command word. -/
inductive DecodeRefusal where
  /-- The bits do not fit the 11 bits of a command word (30_encoding.md R58). Safe (log 17). -/
  | notElevenBits
  deriving DecidableEq, Repr

/-- Decoding of any bits, `nbits` of them: those above bit 10 must be zero. -/
def decodeBits (nbits w : Nat) : Except DecodeRefusal Instr :=
  if w % 2 ^ nbits < 2 ^ 11 then .ok (decode (BitVec.ofNat 11 (w % 2 ^ nbits)))
  else .error .notElevenBits

/-- The decoder on a word of spec/opcode_table.json, numbered as the table numbers its bits. -/
def decodeTableWord (nbits w : Nat) : Option Instr :=
  match decodeBits nbits w with
  | .ok i => some i
  | .error _ => none

/-- The canonical word of a symbol byte, `0x100 + hh` (30_encoding.md R59). -/
def pushWord (x : Symbol) : CmdWord := (1 : BitVec 3) ++ x

/-- The canonical words of 30_encoding.md R59. -/
def encode : Instr → CmdWord
  | .reset => 0x400
  | .fail => 0x200
  | .nop => 0x000
  | .push0 => 0x100
  | .push1 => 0x101
  | .pushx x => pushWord x

/-- The bits of a word that decide the command: the others are don't-care bits (30_encoding.md R59). -/
def Instr.mask : Instr → CmdWord
  | .reset => 0x400
  | .fail => 0x600
  | .nop => 0x700
  | .push0 => 0x7FF
  | .push1 => 0x7FF
  | .pushx _ => 0x7FF

/-- One row of spec/opcode_table.json: the words `w` with `w &&& mask = pattern`. -/
structure OpcodeRow where
  mnemonic : String
  pattern : CmdWord
  mask : CmdWord
  deriving DecidableEq, Repr

/-- A word belongs to a row. -/
def OpcodeRow.covers (r : OpcodeRow) (w : CmdWord) : Bool := w &&& r.mask == r.pattern

/-- The twelve rows of spec/opcode_table.json, in its order (30_encoding.md R59). -/
def opcodeRows : List OpcodeRow :=
  [⟨"RESET", 0x400, 0x400⟩, ⟨"FAIL", 0x200, 0x600⟩, ⟨"NOP", 0x000, 0x700⟩,
   ⟨"PUSH0", 0x100, 0x7FF⟩, ⟨"PUSH1", 0x101, 0x7FF⟩,
   ⟨"PUSHX", 0x102, 0x7FE⟩, ⟨"PUSHX", 0x104, 0x7FC⟩, ⟨"PUSHX", 0x108, 0x7F8⟩,
   ⟨"PUSHX", 0x110, 0x7F0⟩, ⟨"PUSHX", 0x120, 0x7E0⟩, ⟨"PUSHX", 0x140, 0x7C0⟩,
   ⟨"PUSHX", 0x180, 0x780⟩]

end Sys2Proof
end

