-- ==== Sys2Proof/Machine/Fetch.lean ====
section
/-! DEFINITION. The command port: one word per step (30_encoding.md R57). The block fetches no
instructions (10_state.md R20); the words come from the environment, in `State.cmds` (log 1). -/

namespace Sys2Proof.Machine

/-- The word presented in this step. Where the environment has none left it presents an endless `NOP`
(60_exceptions.md R135, R144; log 1). -/
def portWord (s : State) : CmdWord := s.cmds.headD (encode .nop)

/-- The word of this step is spent, accepted or not (log 2). -/
def takeWord (s : State) : State := { s with cmds := s.cmds.tail }

/-- The environment presents `w` next, before the words it already has. -/
def presentWord (w : CmdWord) (s : State) : State := { s with cmds := w :: s.cmds }

/-- The environment presents exactly these words, in order. -/
def present (ws : List CmdWord) (s : State) : State := { s with cmds := ws }

end Sys2Proof.Machine
end

