-- ==== Sys2Proof/Machine/Step.lean ====
section
/-! DEFINITION. One step: the command presented on the port, decoded and executed
(20_memory.md R45, 43_dispatch.md R118). -/

namespace Sys2Proof.Machine

/-- One step of the block. -/
def step (s : State) : Host.Outcome State Fault Refusal :=
  exec (decode (portWord s)) (takeWord s)

/-- The state in which the next step runs the command word `w`: that word is presented next. -/
def State.withFetchWord (s : State) (nbits w : Nat) : State :=
  presentWord (BitVec.ofNat 11 (w % 2 ^ nbits)) s

end Sys2Proof.Machine
end

