-- ==== Sys2Proof/Machine/Ports.lean ====
section
/-! DEFINITION. The output ports of a step (30_encoding.md R57, R63). They are functions of the state, the
command and the environment's answers, and nothing holds them between steps (10_state.md R21). -/

namespace Sys2Proof.Machine

/-- The outputs of one step (30_encoding.md R57). `none` says that the port carries no meaning in the
step (42_delimiter.md R96). The status ports show the state after the step (log 12). -/
structure Ports where
  ready : Bool
  /-- The port `match`. -/
  matchOut : Bool
  /-- The port `cand_len`, 8 bits. -/
  candLen : Option (BitVec 8)
  /-- The cells `cand[0..cand_len)`; the cells beyond hold no value (30_encoding.md R56). -/
  cand : Option (List Symbol)
  report : Bool
  log : Bool
  /-- The port `len`, 9 bits. -/
  len : BitVec 9
  halted : Bool
  err : BitVec 2
  deriving DecidableEq, Repr

/-- The ports of a step without a match, after which the block is in `t`. -/
def quietPorts (t : State) : Ports where
  ready := ready t
  matchOut := false
  candLen := none
  cand := none
  report := false
  log := false
  len := BitVec.ofNat 9 t.len
  halted := t.halted
  err := t.err.code

/-- The ports of a step whose snapshot `S` matches: `report = v and con_ok`,
`log = v and con_ok and log_ok` (43_dispatch.md R111). -/
def matchPorts (e : Env) (S : List Symbol) (ok : BitVec 2) (t : State) : Ports :=
  let v := (e.dec (extract e.params S)).valid
  { quietPorts t with
    matchOut := true
    candLen := some (BitVec.ofNat 8 (candLen e.params S))
    cand := some (extract e.params S)
    report := v && conOk ok
    log := v && conOk ok && logOk ok }

/-- The ports of STEP `x` (43_dispatch.md R107); a push that is not accepted shows no match
(60_exceptions.md R132). -/
def symOutputs (e : Env) (x : Symbol) (s : State) : Ports :=
  let S := snapshot (pushSym e.params x s)
  if ready s && check e.params S then matchPorts e S (e.sinks s.draws) (stepSym e x s)
  else quietPorts (stepSym e x s)

/-- The ports of the step that runs a command (40_window.md R71, 60_exceptions.md R127,
70_reset_and_hazards.md R150, 43_dispatch.md R107). -/
def outputs (e : Env) (i : Instr) (s : State) : Ports :=
  match i with
  | .reset => { quietPorts (restart s) with candLen := some 0 }
  | .fail => quietPorts (if ready s then raiseHalt .eSrc s else s)
  | .nop => quietPorts s
  | .push0 => symOutputs e sym0 s
  | .push1 => symOutputs e sym1 s
  | .pushx x => symOutputs e x s

/-- The ports of the next step. -/
def stepOutputs (s : State) : Ports :=
  outputs Config.env (decode (portWord s)) (takeWord s)

end Sys2Proof.Machine
end

