-- ==== Sys2Proof/Machine/Realization.lean ====
section
/-! DEFINITION. The realizations of the window and of the matcher that the spec describes
(20_memory.md R40 to R42, 41_sync_matcher.md R93). None is part of `State`: the abstract sequence is normative
(20_memory.md R39) and `wp` is not architectural (10_state.md R28; log 15). -/

namespace Sys2Proof.Machine

/-- The circular-buffer realization (20_memory.md R40). -/
structure RingBuffer where
  /-- `mem[0..N-1]`, any contents at the start. -/
  mem : List Symbol
  /-- The write pointer, any start value below `N`. -/
  wp : Nat
  /-- The count. -/
  len : Nat
  deriving DecidableEq, Repr

/-- The ring's storage and counters are in range (20_memory.md R40). -/
def RingBuffer.wf (N : Nat) (r : RingBuffer) : Bool :=
  decide (r.mem.length = N) && decide (r.wp < N) && decide (r.len ≤ N)

/-- `MemRead(a, n)` of 00_scope.md R10. -/
def memRead (N : Nat) (mem : List Symbol) (a n : Nat) : List Symbol :=
  (List.range n).filterMap fun k => mem[(a + k) % N]?

/-- `MemWrite(a, 1, v)` of 00_scope.md R10. -/
def memWrite (mem : List Symbol) (a : Nat) (v : Symbol) : List Symbol := mem.set a v

/-- PUSH on the ring (20_memory.md R40). -/
def ringPush (N : Nat) (x : Symbol) (r : RingBuffer) : RingBuffer where
  mem := memWrite r.mem r.wp x
  wp := (r.wp + 1) % N
  len := min (r.len + 1) N

/-- SNAPSHOT on the ring (20_memory.md R40). -/
def ringSnapshot (N : Nat) (r : RingBuffer) : List Symbol := memRead N r.mem ((r.wp + N - r.len) % N) r.len

/-- RESET on the ring: `wp` and the cells are left as they are (20_memory.md R40). -/
def ringReset (r : RingBuffer) : RingBuffer := { r with len := 0 }

/-- The shift-register realization; the two variants of 20_memory.md R41 use the same cells. -/
structure ShiftReg where
  cells : List Symbol
  len : Nat
  deriving DecidableEq, Repr

/-- The register's cells and count are in range (20_memory.md R41). -/
def ShiftReg.wf (N : Nat) (r : ShiftReg) : Bool := decide (r.cells.length = N) && decide (r.len ≤ N)

/-- PUSH on the shift register (20_memory.md R41). -/
def shiftPush (N : Nat) (x : Symbol) (r : ShiftReg) : ShiftReg :=
  if r.len < N then { cells := r.cells.set r.len x, len := r.len + 1 }
  else { cells := r.cells.drop 1 ++ [x], len := r.len }

/-- SNAPSHOT on the shift register: `win[i]` is `sr[i]` (20_memory.md R41). -/
def shiftSnapshot (r : ShiftReg) : List Symbol := r.cells.take r.len

/-- PUSH on the variant that always shifts and keeps the data right-aligned (20_memory.md R41). -/
def alignedPush (N : Nat) (x : Symbol) (r : ShiftReg) : ShiftReg where
  cells := r.cells.drop 1 ++ [x]
  len := min (r.len + 1) N

/-- SNAPSHOT on that variant: `win[i]` is `sr[N - len + i]` (20_memory.md R41). -/
def alignedSnapshot (N : Nat) (r : ShiftReg) : List Symbol := r.cells.drop (N - r.len)

/-- The matcher of the variant that 20_memory.md R41 rejects: taps fixed at `sr[0..P-1]`, blind until
`len = N`. -/
def blindCheck (p : Params) (r : ShiftReg) : Bool :=
  decide (r.len = p.cap) && decide (r.cells.take p.patLen = p.pat)

/-- RESET on the shift registers (20_memory.md R41). -/
def shiftReset (r : ShiftReg) : ShiftReg := { r with len := 0 }

/-- The comparator row: the AND of `P` cell equalities and of the guard `len >= P`
(41_sync_matcher.md R93). -/
def comparatorMatch (p : Params) (S : List Symbol) : Bool :=
  decide (p.patLen ≤ S.length) && (List.range p.patLen).all fun i => S[i]? == p.pat[i]?

/-- The two operations that write a window (20_memory.md R42). -/
inductive WindowOp where
  | reset
  | push (x : Symbol)
  deriving DecidableEq, Repr

/-- A sequence of window operations on the abstract sequence (40_window.md R72). -/
def windowRun (N : Nat) (w : Window) (ops : List WindowOp) : Window :=
  ops.foldl (fun w op => match op with | .reset => [] | .push x => pushWindow N w x) w

/-- A sequence of window operations on the ring. -/
def ringRun (N : Nat) (r : RingBuffer) (ops : List WindowOp) : RingBuffer :=
  ops.foldl (fun r op => match op with | .reset => ringReset r | .push x => ringPush N x r) r

/-- A sequence of window operations on the shift register. -/
def shiftRun (N : Nat) (r : ShiftReg) (ops : List WindowOp) : ShiftReg :=
  ops.foldl (fun r op => match op with | .reset => shiftReset r | .push x => shiftPush N x r) r

/-- A sequence of window operations on the right-aligned shift register. -/
def alignedRun (N : Nat) (r : ShiftReg) (ops : List WindowOp) : ShiftReg :=
  ops.foldl (fun r op => match op with | .reset => shiftReset r | .push x => alignedPush N x r) r

end Sys2Proof.Machine
end

