-- ==== Sys2Proof/Machine/Trace.lean ====
section
/-! DEFINITION. The command traces of the spec: their text (30_encoding.md R65) and the pseudo-operations
with their expansions (R66). -/

namespace Sys2Proof.Machine

/-- One item of a command trace (30_encoding.md R65, R66). -/
inductive Trace where
  /-- Nothing. -/
  | done
  /-- One command. -/
  | cmd (i : Instr)
  /-- `PUSH b` or `PUSH #hh`. -/
  | push (x : Symbol)
  /-- `CHUNK "…"`: one received message (43_dispatch.md R114). -/
  | chunk (xs : List Symbol)
  /-- `REP n`: the body written `n` times. -/
  | rep (n : Nat) (body : Trace)
  /-- `IDLE n`: `n` times `NOP`. -/
  | idle (n : Nat)
  /-- `.word 0xhhh`: a raw word. -/
  | word (w : CmdWord)
  /-- One item, then another. -/
  | seq (first rest : Trace)
  deriving DecidableEq, Repr

/-- `PUSH b` and `PUSH #hh` as a command (30_encoding.md R66). -/
def pushInstr (x : Symbol) : Instr := decodeSym x

/-- `CHUNK`: one push for each byte, in order (30_encoding.md R66, 43_dispatch.md R114). -/
def chunkWords (xs : List Symbol) : List CmdWord := xs.map fun x => encode (pushInstr x)

/-- The words of a trace (30_encoding.md R66). -/
def Trace.expand : Trace → List CmdWord
  | .done => []
  | .cmd i => [encode i]
  | .push x => [encode (pushInstr x)]
  | .chunk xs => chunkWords xs
  | .rep n body => (List.replicate n body.expand).flatten
  | .idle n => List.replicate n (encode .nop)
  | .word w => [w]
  | .seq first rest => first.expand ++ rest.expand

/-- One hex digit of a trace. -/
def hexDigit (d : Nat) : Char := "0123456789ABCDEF".toList.getD d '?'

/-- The two hex digits `hh` of a byte (30_encoding.md R65). -/
def hexByte (x : Symbol) : String := String.ofList [hexDigit (x.toNat / 16), hexDigit (x.toNat % 16)]

/-- A command as one line of a trace (30_encoding.md R65). -/
def instrText (i : Instr) : String :=
  match i with
  | .pushx x => i.mnemonic ++ " #" ++ hexByte x
  | _ => i.mnemonic

end Sys2Proof.Machine
end

