-- ==== Sys2Proof/Machine/Run.lean ====
section
/-! DEFINITION. Runs over a command sequence (43_dispatch.md R118) and over a stream of symbols. -/

namespace Sys2Proof.Machine

/-- `run : State × seq Cmd → State`: one step for each word presented, in order (43_dispatch.md R118). -/
def run (s : State) (ws : List CmdWord) : Host.Outcome State Fault Refusal :=
  Host.Core.run Sys2Proof.core ws.length (present ws s)

/-- A stream of symbols fed one at a time, each by one STEP, in any environment (43_dispatch.md R118). -/
def feed (e : Env) (s : State) (xs : List Symbol) : State := xs.foldl (fun s x => stepSym e x s) s

/-- The symbols of a frame: pattern, `G` skipped symbols, body (30_encoding.md R53). -/
def frameSymbols (p : Params) (skipped body : List Symbol) : List Symbol := p.pat ++ skipped ++ body

end Sys2Proof.Machine
end

