-- ==== Sys2Proof/Safety.lean ====
section
/-! DEFINITION. The terms in which claims about the block are stated: what may be observed
(60_exceptions.md R132), the invariant of the state, the shape of the output trace, and the stream
(10_state.md R16, 41_sync_matcher.md R89). -/

namespace Sys2Proof.Machine

/-- `last k S` of 00_scope.md R10. -/
def lastN (k : Nat) (S : List Symbol) : List Symbol := S.drop (S.length - min k S.length)

/-- What a claim may read of a state: the window is not observable while halted
(60_exceptions.md R132). -/
structure View where
  window : Option Window
  total : Nat
  halted : Bool
  err : ErrCause
  phase : Phase
  out : List Event
  deriving DecidableEq, Repr

/-- The observable part of a state (60_exceptions.md R132). -/
def view (s : State) : View where
  window := if s.halted then none else some s.win
  total := s.total
  halted := s.halted
  err := s.err
  phase := s.phase
  out := s.out

/-- The state invariant: between steps `phase` is ACC (10_state.md R23), `halted` and `err` agree (R25,
60_exceptions.md R126), and a running block holds `min(N, T)` symbols (10_state.md R16). -/
def MachineInv (s : State) : Prop :=
  s.phase = .acc ∧ (s.halted = true ↔ s.err ≠ .eNone) ∧
    (s.halted = false → s.win.length = min 256 s.total)

/-- Where the output trace stands (43_dispatch.md R111, 60_exceptions.md R131). -/
inductive TraceMode where
  /-- Between steps; the latest candidate was of arrival `t` (0 for none). -/
  | idle (t : Nat)
  /-- A candidate of arrival `t` decoded valid with fields `f` and is not reported yet. -/
  | decoded (t : Nat) (f : Fields)
  /-- Those fields were reported and are not logged yet. -/
  | reported (t : Nat) (f : Fields)
  /-- The block halted. -/
  | halted (e : ErrCause)
  /-- The events are in no order the rules allow. -/
  | bad
  deriving DecidableEq, Repr

/-- One event after the ones before it: a candidate per arrival, later ones later, with the length
`min(256, T) -. 23` (42_delimiter.md R99); a valid one is followed by its own report and its own log row or by a
sink halt (43_dispatch.md R111, 60_exceptions.md R129); nothing follows a halt (R132). -/
def traceStep (dec : List Symbol → DecodeResult) (m : TraceMode) (ev : Event) : TraceMode :=
  match m, ev with
  | .idle t0, .cand t c =>
    if t0 < t ∧ c.length = min 256 t - 23 then
      (if (dec c).valid then .decoded t (dec c).fields else .idle t)
    else .bad
  | .idle _, .halt .eSrc => .halted .eSrc
  | .decoded t f, .report g => if f = g then .reported t f else .bad
  | .decoded _ _, .halt .eSink => .halted .eSink
  | .reported t f, .log g => if f = g then .idle t else .bad
  | .reported _ _, .halt .eSink => .halted .eSink
  | _, _ => .bad

/-- Where a whole trace stands. -/
def traceMode (dec : List Symbol → DecodeResult) (out : List Event) : TraceMode :=
  out.foldl (traceStep dec) (.idle 0)

/-- The output trace is one that the rules allow, complete up to the last step. -/
def TraceInv (s : State) : Prop :=
  (s.halted = true → traceMode Config.dec s.out = .halted s.err) ∧
    (s.halted = false → ∃ t, t ≤ s.total ∧ traceMode Config.dec s.out = .idle t)

/-- The stream a running block has been fed since its last reset, after one more command
(10_state.md R16, R22). -/
def streamAfter (i : Instr) (h : List Symbol) : List Symbol :=
  match i with
  | .reset => []
  | i => h ++ (operand i).toList

/-- Window and count agree with the stream fed since the last reset (10_state.md R16, 40_window.md R77). -/
def HoldsStream (s : State) (h : List Symbol) : Prop :=
  s.halted = false → s.win = lastN 256 h ∧ s.total = h.length

/-- The symbols of the push words after the last `RESET` word. -/
def streamOf (ws : List CmdWord) : List Symbol :=
  ws.foldl (fun h w => streamAfter (decode w) h) []

/-- `match` at arrival `T` in stream coordinates, with `a = T -. N` the index of the oldest symbol held
(41_sync_matcher.md R89). -/
def matchAt (p : Params) (xs : List Symbol) (T : Nat) : Bool :=
  decide (p.patLen ≤ T - (T - p.cap)) &&
    (List.range p.patLen).all fun i => xs[T - p.cap + i]? == p.pat[i]?

/-- The candidate of arrival `T` in stream coordinates: the symbols `a + 23` to `T - 1`
(42_delimiter.md R101). -/
def candAt (p : Params) (xs : List Symbol) (T : Nat) : List Symbol :=
  (xs.take T).drop (T - p.cap + p.skip)

/-- What arrival `T` of a stream appends to `out` when the sinks accept (43_dispatch.md R118). -/
def arrivalEvents (e : Env) (xs : List Symbol) (T : Nat) : List Event :=
  if matchAt e.params xs T then
    let c := candAt e.params xs T
    .cand T c :: (if (e.dec c).valid then [.report (e.dec c).fields, .log (e.dec c).fields] else [])
  else []

/-- Both sinks accept every result. -/
def sinksAccept (e : Env) : Prop := ∀ n, conOk (e.sinks n) = true ∧ logOk (e.sinks n) = true

end Sys2Proof.Machine
end

