-- ==== Sys2Proof/Certificates/Slice0/Obligations.lean ====
section
/-! DEFINITION. The statements for the provers. Each docstring names the rules of spec/ it formalises. -/

open Sys2Proof Sys2Proof.Machine

/-- Decoding and encoding agree (30_encoding.md R58, R59, R62): every well-formed command is read back from
its canonical word, every word decodes to a well-formed command, and the words of a command are exactly
those that agree with its canonical word outside its don't-care bits. -/
def Obligations.DecodeInvertsEncode : Prop :=
  (∀ i : Instr, i.wf = true → decode (encode i) = i) ∧
  (∀ w : CmdWord, (decode w).wf = true) ∧
  (∀ (i : Instr) (w : CmdWord), i.wf = true → (decode w = i ↔ w &&& i.mask = encode i))

/-- 30_encoding.md R59: every word selects exactly one operation, the rows are disjoint, and the canonical
words are the ones listed. -/
def Obligations.EveryWordSelectsOneRow : Prop :=
  (∀ w : CmdWord, ∃ r ∈ opcodeRows, r.covers w = true ∧ r.mnemonic = (decode w).mnemonic ∧
    ∀ r' ∈ opcodeRows, r'.covers w = true → r' = r) ∧
  encode .reset = 0x400 ∧ encode .fail = 0x200 ∧ encode .nop = 0x000 ∧
  encode .push0 = 0x100 ∧ encode .push1 = 0x101 ∧
  ∀ x : Symbol, encode (.pushx x) = 0x100 + x.setWidth 11

/-- 30_encoding.md R60: `rst` dominates `src_fail`, which dominates `sym_valid`; the symbol of a `FAIL`
word is not pushed. -/
def Obligations.RstDominatesSrcFailDominatesSymValid : Prop :=
  ∀ (w : CmdWord) (s : State),
    (w.getLsbD 10 = true → decode w = .reset) ∧
    (w.getLsbD 10 = false → w.getLsbD 9 = true →
      decode w = .fail ∧ ∃ t, exec (decode w) s = .next t ∧ t.total = s.total)

/-- Words written out from 30_encoding.md R59 (95_test_vectors.md 2.7) decode to the commands they stand
for. -/
def Obligations.WrittenOutWordsDecode : Prop :=
  decode 0b00011111111 = .nop ∧ decode 0b00100000000 = .push0 ∧ decode 0b00100000001 = .push1 ∧
  decode 0b00100000010 = .pushx 0x02 ∧ decode 0b00111111111 = .pushx 0xFF ∧
  decode 0b01010100101 = .fail ∧ decode 0b01100000001 = .fail ∧
  decode 0b10100000001 = .reset ∧ decode 0b11111111111 = .reset

/-- A word of the opcode table, placed where the next step fetches, is decoded and run by that step
(30_encoding.md R58, R59); bits beyond the eleven are refused by the table decoder (the model's choice,
log 17). -/
def Obligations.TableWordIsFetchedAndRun : Prop :=
  ∀ (s : State) (w : Nat),
    (w < 2 ^ 11 → decodeTableWord 16 w = some (decode (BitVec.ofNat 11 w)) ∧
      step (s.withFetchWord 16 w) = exec (decode (BitVec.ofNat 11 w)) s) ∧
    (2 ^ 11 ≤ w → w < 2 ^ 16 → decodeTableWord 16 w = none)

/-- A step runs the command decoded from the word presented (20_memory.md R45, 43_dispatch.md R118) on the rest of
the state. Two clauses are the MODEL'S CHOICE (DESIGN CHOICE): that the word is spent in its step in every
state, at `ready = 0` too, where 30_encoding.md R62 has it presented again and 93 U17 leaves that to the
environment (log 2); and that with no word presented the step is a `NOP` (log 1). -/
def Obligations.StepRunsThePresentedCommand : Prop :=
  (∀ (s : State) (w : CmdWord) (ws : List CmdWord), s.cmds = w :: ws →
    step s = exec (decode w) { s with cmds := ws }) ∧
  (∀ s : State, s.cmds = [] → step s = .next s)

/-- No command is illegal, none traps, and nothing in the block stops it (30_encoding.md R62,
60_exceptions.md R130): every command and every step answers a next state. -/
def Obligations.EveryCommandAnswersANextState : Prop :=
  (∀ (i : Instr) (s : State), ∃ t, exec i s = .next t) ∧ (∀ s : State, ∃ t, step s = .next t)

/-- 40_window.md R71: every word `000 xxxxxxxx` is a `NOP`, which leaves every state element as it is, in
every state, and shows no match. -/
def Obligations.NopChangesNothing : Prop :=
  ∀ (x : Symbol) (s : State) (e : Env),
    decode ((0 : BitVec 3) ++ x) = .nop ∧ exec .nop s = .next s ∧
    (outputs e .nop s).matchOut = false ∧ (outputs e .nop s).candLen = none ∧
    (outputs e .nop s).cand = none

/-- 70_reset_and_hazards.md R150: every word with `rst` is a `RESET`, accepted in every state; it empties the
window, clears the halt, restarts `T` and `out`, emits nothing, and shows the outputs the rule lists. That
`cmds` and `draws` stay is not in R150: it is the MODEL'S CHOICE for its own two fields (DESIGN CHOICE: log 1
for `cmds`, log 4 for `draws`). -/
def Obligations.ResetRestartsTheBlock : Prop :=
  ∀ (w : CmdWord) (s : State) (e : Env),
    (w.getLsbD 10 = true → decode w = .reset) ∧
    (∃ t, exec .reset s = .next t ∧ t.len = 0 ∧ t.win = [] ∧ t.halted = false ∧ t.err = .eNone ∧
      t.phase = .acc ∧ t.total = 0 ∧ t.out = [] ∧ t.cmds = s.cmds ∧ t.draws = s.draws) ∧
    (outputs e .reset s).matchOut = false ∧ (outputs e .reset s).candLen = some 0 ∧
    (outputs e .reset s).report = false ∧ (outputs e .reset s).log = false ∧
    (outputs e .reset s).ready = true

/-- 10_state.md R31: the state after reset; no cell can be read. -/
def Obligations.ResetStateValues : Prop :=
  State.reset.len = 0 ∧ (∀ i, readCell State.reset i = .error (.cellHoldsNoValue i)) ∧
  State.reset.halted = false ∧ State.reset.err.code = 0 ∧ State.reset.phase = .acc ∧
  State.reset.total = 0 ∧ State.reset.out = []

/-- 10_state.md R14: a cell below `len` reads as its symbol, a cell at or beyond `len` holds no value and
its read is a fault. -/
def Obligations.CellsBeyondLenHoldNoValue : Prop :=
  ∀ (s : State) (i : Nat),
    (∀ h : i < s.len, readCell s i = .ok (s.win[i]'h)) ∧
    (s.len ≤ i → readCell s i = .error (.cellHoldsNoValue i))

/-- `FAIL` on a ready block halts it with `E_SRC`, emits `HALT(E_SRC)`, pushes nothing and shows no match
(60_exceptions.md R127, R131). The window is not read: R132 forbids it while halted. -/
def Obligations.FailHaltsAReadyBlock : Prop :=
  ∀ (s : State) (e : Env), ready s = true →
    (∃ t, exec .fail s = .next t ∧ t.halted = true ∧ t.err = .eSrc ∧ t.phase = .acc ∧
      t.out = s.out ++ [.halt .eSrc] ∧ t.total = s.total ∧ t.cmds = s.cmds ∧ t.draws = s.draws) ∧
    (outputs e .fail s).matchOut = false ∧ (outputs e .fail s).report = false ∧
    (outputs e .fail s).log = false

/-- The window stays as it is over `FAIL` and while halted. This is the MODEL'S CHOICE (log 5):
60_exceptions.md R132 lets a model keep or discard it, and forbids a claim about the hardware to read it. -/
def Obligations.HaltedWindowIsKeptByChoice : Prop :=
  ∀ s : State, (∃ t, exec .fail s = .next t ∧ t.win = s.win) ∧
    (s.halted = true → ∀ i : Instr, i ≠ .reset → ∃ t, exec i s = .next t ∧ t.win = s.win)

/-- 60_exceptions.md R132: while halted every command but `RESET` changes nothing observable, emits nothing
and shows no match; `RESET` is accepted, and the window does not survive it. -/
def Obligations.HaltedBlockTakesOnlyReset : Prop :=
  ∀ (s : State) (e : Env), s.halted = true →
    (∀ i : Instr, i ≠ .reset →
      (∃ t, exec i s = .next t ∧ view t = view s ∧ t.cmds = s.cmds ∧ t.draws = s.draws) ∧
      (outputs e i s).ready = false ∧ (outputs e i s).matchOut = false ∧
      (outputs e i s).report = false ∧ (outputs e i s).log = false) ∧
    (∃ t, exec .reset s = .next t ∧ t.halted = false ∧ t.win = [])

/-- `ready = 1` iff accumulating and not halted; a command other than `RESET` presented at `ready = 0` has
no effect (43_dispatch.md R119, 30_encoding.md R62). -/
def Obligations.CommandsAtNotReadyHaveNoEffect : Prop :=
  ∀ s : State, (ready s = true ↔ s.phase = .acc ∧ s.halted = false) ∧
    (ready s = false → ∀ i : Instr, i ≠ .reset →
      ∃ t, exec i s = .next t ∧ view t = view s ∧ t.cmds = s.cmds ∧ t.draws = s.draws)

/-- The only way out of a halt is `RESET` (60_exceptions.md R133). -/
def Obligations.OnlyResetLeavesAHalt : Prop :=
  ∀ s t : State, s.halted = true → step s = .next t → t.halted = false →
    decode (portWord s) = .reset

/-- The error taxonomy is closed (60_exceptions.md R125, R126, R127, R129): a running block halts only by
`FAIL`, with `E_SRC`, or in a matching push whose result is valid and whose sinks do not both accept, with
`E_SINK`; either way the last event is the `HALT` of that cause. -/
def Obligations.HaltHasOneOfTwoCauses : Prop :=
  ∀ s t : State, s.halted = false → step s = .next t → t.halted = true →
    (decode (portWord s) = .fail ∧ t.err = .eSrc ∧ t.out = s.out ++ [.halt .eSrc]) ∨
    (∃ x, operand (decode (portWord s)) = some x ∧
      let S := pushWindow 256 s.win x
      check Params.reference S = true ∧ (Config.dec (extract Params.reference S)).valid = true ∧
      (conOk (Config.sinkOk s.draws) && logOk (Config.sinkOk s.draws)) = false ∧
      t.err = .eSink ∧ ∃ evs, t.out = s.out ++ evs ++ [.halt .eSink])

/-- A push command on a ready block does the whole STEP (43_dispatch.md R107, R111, 60_exceptions.md R129): the
next state field by field, for `PUSH0`, `PUSH1` and `PUSHX` (40_window.md R74). The window is read only where the
block is not halted after the step (60_exceptions.md R132). -/
def Obligations.PushCommandDoesTheStep : Prop :=
  ∀ (i : Instr) (x : Symbol) (s : State), operand i = some x → ready s = true → s.win.length ≤ 256 →
    let W := (s.win ++ [x]).drop (s.win.length + 1 - 256)
    let r := Config.dec (W.drop 23)
    let con := conOk (Config.sinkOk s.draws)
    let log := logOk (Config.sinkOk s.draws)
    let hit : Bool := decide (W.take 17 = [1, 0, 1, 0, 1, 0, 1, 1, 1, 0, 0, 0, 1, 0, 0, 1, 0])
    ∃ t, exec i s = .next t ∧
      (t.halted = false → t.win = W) ∧ t.total = s.total + 1 ∧ t.phase = .acc ∧ t.cmds = s.cmds ∧
      t.draws = s.draws + (if hit && r.valid then 1 else 0) ∧
      t.halted = (hit && r.valid && !(con && log)) ∧
      t.err = (if hit && r.valid && !(con && log) then .eSink else s.err) ∧
      t.out = s.out ++
        (if hit then
          .cand (s.total + 1) (W.drop 23) ::
            (if r.valid then
              (if con then
                .report r.fields :: (if log then [.log r.fields] else [.halt .eSink])
              else [.halt .eSink])
            else [])
        else [])

/-- The outputs of a push on a ready block (30_encoding.md R57, 41_sync_matcher.md R86, 42_delimiter.md R96, R97,
43_dispatch.md R111). -/
def Obligations.PushPortsShowTheStep : Prop :=
  ∀ (e : Env) (i : Instr) (x : Symbol) (s : State), operand i = some x → ready s = true →
    let S := pushWindow e.params.cap s.win x
    let r := e.dec (S.drop e.params.skip)
    let ok := e.sinks s.draws
    let o := outputs e i s
    (S.take e.params.patLen = e.params.pat →
      o.matchOut = true ∧ o.cand = some (S.drop e.params.skip) ∧
      o.candLen = some (BitVec.ofNat 8 (S.length - e.params.skip)) ∧
      o.report = (r.valid && conOk ok) ∧ o.log = (r.valid && conOk ok && logOk ok)) ∧
    (S.take e.params.patLen ≠ e.params.pat →
      o.matchOut = false ∧ o.cand = none ∧ o.candLen = none ∧ o.report = false ∧ o.log = false)

/-- 40_window.md R72, cell by cell and for every capacity: below capacity the symbol goes into the first free
cell; at capacity every symbol moves one index down and the new one is the newest. Everything but the
window and `T` stays. -/
def Obligations.PushAppendsAndEvictsCellByCell : Prop :=
  ∀ (p : Params) (x : Symbol) (s : State), 1 ≤ p.cap → s.len ≤ p.cap →
    let t := pushSym p x s
    t.len = min (s.len + 1) p.cap ∧ t.total = s.total + 1 ∧
    (s.len < p.cap → (∀ k, k < s.len → readCell t k = readCell s k) ∧ readCell t s.len = .ok x) ∧
    (s.len = p.cap → (∀ k, k < p.cap - 1 → readCell t k = readCell s (k + 1)) ∧
      readCell t (p.cap - 1) = .ok x) ∧
    t.halted = s.halted ∧ t.err = s.err ∧ t.phase = s.phase ∧ t.out = s.out ∧ t.cmds = s.cmds ∧
    t.draws = s.draws

/-- The window invariant, one step (10_state.md R16): if the window and `T` of a running block agree with the
stream fed since its last reset, they do after every command. -/
def Obligations.StepKeepsTheWindowLaw : Prop :=
  ∀ (s t : State) (h : List Symbol), MachineInv s → HoldsStream s h → step s = .next t →
    HoldsStream t (streamAfter (decode (portWord s)) h)

/-- 40_window.md R77, the window law: for every command sequence, from reset or from any state that agrees with
a stream, a running block holds exactly the last `min(256, T)` symbols in arrival order. -/
def Obligations.WindowLawOverEveryRun : Prop :=
  ∀ (s t : State) (h : List Symbol) (ws : List CmdWord), MachineInv s → HoldsStream s h →
    run s ws = .next t → t.halted = false →
    let g := ws.foldl (fun g w => streamAfter (decode w) g) h
    t.win = lastN 256 g ∧ t.total = g.length ∧ t.win.length = min 256 t.total

/-- 41_sync_matcher.md R86: CHECK is true exactly when the snapshot has `P` symbols and each of the first `P`
equals the pattern's symbol at its index; the two forms of the rule agree. -/
def Obligations.CheckComparesPositionZero : Prop :=
  ∀ (p : Params) (S : List Symbol),
    (check p S = true ↔ p.patLen ≤ S.length ∧ ∀ i, i < p.patLen → S[i]? = p.pat[i]?) ∧
    (check p S = true ↔ S.take p.patLen = p.pat)

/-- 41_sync_matcher.md R88: a non-bit symbol among the first seventeen prevents the match, and symbols at
indices of 17 or more have no influence on it. -/
def Obligations.NonBitSymbolsNeverMatch : Prop :=
  (∀ (S : List Symbol) (i : Nat) (x : Symbol), i < 17 → S[i]? = some x → isBit x = false →
    check Params.reference S = false) ∧
  (∀ S S' : List Symbol, S.take 17 = S'.take 17 → check Params.reference S = check Params.reference S')

/-- 41_sync_matcher.md R89: the match of arrival `T` in stream coordinates, for every choice of parameters. -/
def Obligations.MatchInStreamCoordinates : Prop :=
  ∀ (e : Env) (i : Instr) (x : Symbol) (s : State) (xs : List Symbol), operand i = some x →
    ready s = true → s.win = lastN e.params.cap xs →
    (outputs e i s).matchOut = matchAt e.params (xs ++ [x]) (xs.length + 1)

/-- While the window fills, a pattern at the very start of the stream matches at every arrival 17 to 256,
each time with a longer candidate, and not at arrival 257; with another start there is no match before
the window is full (41_sync_matcher.md R90). -/
def Obligations.FillPhaseMatchesRepeat : Prop :=
  ∀ (e : Env) (i : Instr) (x : Symbol) (s : State) (xs : List Symbol), e.params = Params.reference →
    operand i = some x → ready s = true → s.win = lastN 256 xs →
    ((xs ++ [x]).take 17 = Params.reference.pat →
      (xs.length ≤ 255 → (outputs e i s).matchOut = true ∧
        (outputs e i s).cand = some ((xs ++ [x]).drop 23)) ∧
      (xs.length = 256 → (outputs e i s).matchOut = false)) ∧
    ((xs ++ [x]).take 17 ≠ Params.reference.pat → xs.length ≤ 255 →
      (outputs e i s).matchOut = false)

/-- In steady state a pattern whose first symbol has stream index `j` matches at arrival `j + 256`, with the
stream symbols from index `j + 23` on as its candidate, 233 of them (41_sync_matcher.md R91, 42_delimiter.md R101,
R105). -/
def Obligations.SteadyStateDelivery : Prop :=
  ∀ (e : Env) (i : Instr) (x : Symbol) (s : State) (xs : List Symbol) (j : Nat),
    e.params = Params.reference → operand i = some x → ready s = true → s.win = lastN 256 xs →
    xs.length + 1 = j + 256 → (∀ k, k < 17 → (xs ++ [x])[j + k]? = Params.reference.pat[k]?) →
    (outputs e i s).matchOut = true ∧
    (outputs e i s).cand = some ((xs ++ [x]).drop (j + 23)) ∧
    ((xs ++ [x]).drop (j + 23)).length = 233

/-- Two matches of a full window stand at least 15 arrivals apart (41_sync_matcher.md R91): the pattern overlaps
itself only at shift 15 (30_encoding.md R55). -/
def Obligations.FullWindowMatchesFifteenApart : Prop :=
  ∀ (e : Env) (i j : Instr) (x y : Symbol) (s u : State) (xs ys : List Symbol),
    e.params = Params.reference → operand i = some x → operand j = some y →
    ready s = true → ready u = true → 255 ≤ xs.length → s.win = lastN 256 xs →
    u.win = lastN 256 (xs ++ x :: ys) →
    (outputs e i s).matchOut = true → (outputs e j u).matchOut = true → 15 ≤ ys.length + 1

/-- 42_delimiter.md R97: the candidate is the snapshot from index `SKIP` on, empty when the snapshot is not
longer than that. -/
def Obligations.ExtractIsTheTailAfterSkip : Prop :=
  Params.reference.skip = 23 ∧ ∀ (p : Params) (S : List Symbol),
    extract p S = S.drop p.skip ∧ (extract p S).length = candLen p S ∧
    candLen p S = S.length - p.skip ∧
    (∀ i, i < candLen p S → (extract p S)[i]? = S[p.skip + i]?) ∧
    (S.length ≤ p.skip → extract p S = [])

/-- The candidate of a matching step fits the `cand_len` port: at most 233 symbols, exactly 233 when the
window was full (42_delimiter.md R99). -/
def Obligations.CandidateLengthFitsItsPort : Prop :=
  ∀ (e : Env) (i : Instr) (x : Symbol) (s : State), e.params = Params.reference →
    operand i = some x → ready s = true → s.win.length ≤ 256 →
    (outputs e i s).matchOut = true →
    ∃ (c : List Symbol) (n : BitVec 8), (outputs e i s).cand = some c ∧
      (outputs e i s).candLen = some n ∧ n.toNat = c.length ∧ c.length ≤ 233 ∧
      (s.win.length = 256 → c.length = 233)

/-- The six skipped symbols are not examined (42_delimiter.md R104): two snapshots that differ only there give
the same match and the same candidate. -/
def Obligations.SkippedSymbolsAreNotExamined : Prop :=
  ∀ a b g g' : List Symbol, a.length = 17 → g.length = 6 → g'.length = 6 →
    check Params.reference (a ++ g ++ b) = check Params.reference (a ++ g' ++ b) ∧
    extract Params.reference (a ++ g ++ b) = b ∧ extract Params.reference (a ++ g' ++ b) = b

/-- 43_dispatch.md R111: DISPATCH emits the candidate, calls the decoder once, and routes a valid result to the
console and then to the log, either one halting the block when it fails; `T` stays, and so does the window of
a block that is not halted. -/
def Obligations.DispatchRoutesTheResult : Prop :=
  ∀ (e : Env) (T : Nat) (c : List Symbol) (s : State), s.halted = false →
    let r := e.dec c
    let ok := e.sinks s.draws
    let t := dispatch e T c s
    (r.valid = false → t = { s with out := s.out ++ [.cand T c] }) ∧
    (r.valid = true → t.draws = s.draws + 1 ∧ t.total = s.total ∧ t.cmds = s.cmds ∧
      (conOk ok = false → t.out = s.out ++ [.cand T c, .halt .eSink] ∧ t.halted = true ∧
        t.err = .eSink) ∧
      (conOk ok = true → logOk ok = false →
        t.out = s.out ++ [.cand T c, .report r.fields, .halt .eSink] ∧ t.halted = true ∧
        t.err = .eSink) ∧
      (conOk ok = true → logOk ok = true →
        t.out = s.out ++ [.cand T c, .report r.fields, .log r.fields] ∧ t.halted = false ∧
        t.err = s.err ∧ t.phase = s.phase ∧ t.win = s.win))

/-- An invalid decode is dropped silently (43_dispatch.md R112): the step pushes its symbol and emits the
candidate event, nothing is reported, logged, counted or halted, no sink is asked, and the window is as
after a push without a match (42_delimiter.md R103). -/
def Obligations.InvalidDecodeIsDroppedSilently : Prop :=
  ∀ (e : Env) (x : Symbol) (s : State), ready s = true →
    let S := pushWindow e.params.cap s.win x
    check e.params S = true → (e.dec (extract e.params S)).valid = false →
    stepSym e x s = { s with win := S, total := s.total + 1,
                             out := s.out ++ [.cand (s.total + 1) (extract e.params S)] } ∧
    (symOutputs e x s).report = false ∧ (symOutputs e x s).log = false

/-- A step is a function of the window, the symbol, the decoder's answer for its own candidate and the
sinks' answer (43_dispatch.md R110, R116): blocks that agree in these, whatever else differs in their past or
in the decoder, emit the same events and agree afterwards. -/
def Obligations.StepDependsOnWindowSymbolAndAnswers : Prop :=
  ∀ (e e' : Env) (x : Symbol) (s s' : State), e.params = e'.params → ready s = true →
    ready s' = true → s.win = s'.win → s.total = s'.total →
    e.dec (extract e.params (pushWindow e.params.cap s.win x)) =
      e'.dec (extract e.params (pushWindow e.params.cap s.win x)) →
    e.sinks s.draws = e'.sinks s'.draws →
    ∃ evs, (stepSym e x s).out = s.out ++ evs ∧ (stepSym e' x s').out = s'.out ++ evs ∧
      (stepSym e x s).halted = (stepSym e' x s').halted ∧
      ((stepSym e x s).halted = false → (stepSym e x s).win = (stepSym e' x s').win)

/-- Halt entry (60_exceptions.md R131): exactly these four effects in the step of the cause. That a cause raised on
a block already halted has no effect at all, no `HALT` event among them, is the MODEL'S DEDUCTION from R127 and
R133 (DEDUCED, log 19): R131 itself exempts `err` alone. The window is not read (R132). That `cmds` and
`draws` stay is about the model's own fields (log 1, log 4). -/
def Obligations.HaltEntryDoesExactlyThis : Prop :=
  ∀ (c : ErrCause) (s : State),
    (s.halted = false → view (raiseHalt c s) = { view s with window := none, halted := true, err := c,
                                                             phase := .acc, out := s.out ++ [.halt c] }) ∧
    (s.halted = true → view (raiseHalt c s) = view s) ∧
    (raiseHalt c s).cmds = s.cmds ∧ (raiseHalt c s).draws = s.draws

/-- Every step keeps the state invariant (10_state.md R15, R16, R23, R25, 60_exceptions.md R126). -/
def Obligations.StepKeepsMachineInv : Prop :=
  ∀ s t : State, MachineInv s → step s = .next t → MachineInv t

/-- The three invariants hold after reset (10_state.md R31). -/
def Obligations.InvariantsHoldAtReset : Prop :=
  MachineInv State.reset ∧ TraceInv State.reset ∧ HoldsStream State.reset []

/-- Every step keeps the output trace one that the rules allow (43_dispatch.md R111, R112, R113, 60_exceptions.md
R129, R132): candidates in increasing arrivals with the lengths of 42_delimiter.md R99, each valid one followed by its
own report and log row or by a sink halt, nothing after a halt. PREMISE, which the model's atomic steps build
in: no external termination inside a step (60_exceptions.md R136, 93 U6; DEDUCED, log 8). Without it a valid
candidate may be left without its report or log row. -/
def Obligations.StepKeepsTheTraceWellFormed : Prop :=
  ∀ s t : State, MachineInv s → TraceInv s → step s = .next t → TraceInv t

/-- The trace only grows, by at most three events a step, except over `RESET`, which restarts it
(10_state.md R24, 20_memory.md R45, 70_reset_and_hazards.md R150). -/
def Obligations.TraceOnlyGrowsUntilReset : Prop :=
  ∀ s t : State, step s = .next t →
    (decode (portWord s) ≠ .reset → ∃ evs, t.out = s.out ++ evs ∧ evs.length ≤ 3) ∧
    (decode (portWord s) = .reset → t.out = [])

/-- The circular buffer realizes the window (20_memory.md R40, R42): for every capacity, every start pointer and
start contents, and every sequence of resets and pushes, the ring's snapshot is the abstract window, and
so are the match and the candidate. -/
def Obligations.RingRealizesTheWindow : Prop :=
  ∀ (p : Params) (r : RingBuffer) (ops : List WindowOp), 1 ≤ p.cap → r.wf p.cap = true →
    (ringRun p.cap r ops).wf p.cap = true ∧
    ringSnapshot p.cap (ringRun p.cap r ops) = windowRun p.cap (ringSnapshot p.cap r) ops ∧
    check p (ringSnapshot p.cap (ringRun p.cap r ops)) =
      check p (windowRun p.cap (ringSnapshot p.cap r) ops) ∧
    extract p (ringSnapshot p.cap (ringRun p.cap r ops)) =
      extract p (windowRun p.cap (ringSnapshot p.cap r) ops)

/-- The shift register and its right-aligned variant realize the window (20_memory.md R41, R42). -/
def Obligations.ShiftRegistersRealizeTheWindow : Prop :=
  ∀ (N : Nat) (r : ShiftReg) (ops : List WindowOp), 1 ≤ N → r.wf N = true →
    shiftSnapshot (shiftRun N r ops) = windowRun N (shiftSnapshot r) ops ∧
    alignedSnapshot N (alignedRun N r ops) = windowRun N (alignedSnapshot N r) ops

/-- The variant with fixed taps that is blind until the window is full is not equivalent: fed a stream that
begins with the pattern it misses every match before arrival 256 (20_memory.md R41, 41_sync_matcher.md R90). -/
def Obligations.BlindVariantMissesFillPhaseMatches : Prop :=
  ∀ (r : ShiftReg) (xs : List Symbol), r.wf 256 = true → r.len = 0 → 17 ≤ xs.length →
    xs.length ≤ 255 → xs.take 17 = Params.reference.pat →
    let q := alignedRun 256 r (xs.map .push)
    check Params.reference (alignedSnapshot 256 q) = true ∧ blindCheck Params.reference q = false

/-- The comparator row computes CHECK (41_sync_matcher.md R93). -/
def Obligations.ComparatorRowComputesCheck : Prop :=
  ∀ (p : Params) (S : List Symbol), comparatorMatch p S = check p S

/-- A run may be cut anywhere: chunk boundaries leave no trace (43_dispatch.md R114, R118). -/
def Obligations.RunSplitsAtEveryBoundary : Prop :=
  ∀ (s : State) (xs ys : List CmdWord), ∃ t u,
    run s xs = .next t ∧ run t ys = .next u ∧ run s (xs ++ ys) = .next u ∧ u.cmds = []

/-- Any number of NOPs anywhere changes nothing (40_window.md R71, R77). -/
def Obligations.NopsAreInvisibleInARun : Prop :=
  ∀ (s : State) (ws : List CmdWord), run s ws = run s (ws.filter fun w => decode w != .nop)

/-- Presenting the push words of a chunk is feeding its symbols one STEP at a time (30_encoding.md R66,
43_dispatch.md R114). -/
def Obligations.ChunkIsItsPushesInOrder : Prop :=
  ∀ (s : State) (xs : List Symbol),
    run s (chunkWords xs) = .next (present [] (feed Config.env s xs)) ∧
    (Trace.chunk xs).expand = chunkWords xs ∧
    ∀ ys, chunkWords (xs ++ ys) = chunkWords xs ++ chunkWords ys

/-- 43_dispatch.md R118 from reset with accepting sinks: the trace of a stream is, arrival by arrival, the
candidate of each match in stream coordinates, followed by its report and log row when the decoder calls
it valid; the block does not end the run. PREMISE, which the model's atomic steps build in: no external
termination inside a step (60_exceptions.md R136, 93 U6; DEDUCED, log 8). -/
def Obligations.StreamTraceIsItsMatches : Prop :=
  ∀ (e : Env) (xs : List Symbol), sinksAccept e →
    (feed e State.reset xs).out =
      (List.range xs.length).flatMap (fun k => arrivalEvents e xs (k + 1)) ∧
    (feed e State.reset xs).halted = false ∧ (feed e State.reset xs).total = xs.length

/-- 43_dispatch.md R120: after reset a frame `PAT ++ g ++ B` that fits the window matches at arrivals 17 to
`23 + L`, and the last candidate is `B`, reported and logged once when the decoder calls it valid. PREMISE,
which the model's atomic steps build in: no external termination inside a step (60_exceptions.md R136, 93 U6;
DEDUCED, log 8). -/
def Obligations.FrameAfterResetIsDelivered : Prop :=
  ∀ (e : Env) (g B : List Symbol), e.params = Params.reference → sinksAccept e → g.length = 6 →
    23 + B.length ≤ 256 →
    let F := frameSymbols Params.reference g B
    ∃ before, (feed e State.reset F).out =
        before ++ .cand (23 + B.length) B ::
          (if (e.dec B).valid then [.report (e.dec B).fields, .log (e.dec B).fields] else []) ∧
      before = (List.range' 17 (6 + B.length)).flatMap (fun T =>
        .cand T ((F.take T).drop 23) ::
          (if (e.dec ((F.take T).drop 23)).valid then
            [.report (e.dec ((F.take T).drop 23)).fields, .log (e.dec ((F.take T).drop 23)).fields]
          else []))

/-- The parameter conditions (00_scope.md R9): the reference values are well-formed, a zero capacity and an
empty pattern are declined, and a pattern longer than the window never matches. -/
def Obligations.ParametersOutsideTheConditions : Prop :=
  Params.reference.wf = true ∧
  (∀ p : Params, p.wf = true ↔ 1 ≤ p.cap ∧ 1 ≤ p.patLen) ∧
  (∀ (p : Params) (w : Window) (x : Symbol), p.cap < p.patLen → w.length ≤ p.cap →
    check p (pushWindow p.cap w x) = false)

/-- The status ports after a step (10_state.md R26, 30_encoding.md R57, 60_exceptions.md R126): `halted` and `err` are
the state's, `err` is never the reserved code, `ready` is the negation of `halted` between steps, and
`len`, read while not halted, is not truncated. -/
def Obligations.StatusPortsShowTheState : Prop :=
  ∀ s t : State, MachineInv s → step s = .next t →
    (stepOutputs s).halted = t.halted ∧ (stepOutputs s).err = t.err.code ∧
    (stepOutputs s).err ≠ 3 ∧ (stepOutputs s).ready = !t.halted ∧
    (t.halted = false → (stepOutputs s).len.toNat = t.len)

/-- 30_encoding.md R51: the operand of a push word is its low byte taken whole, and the cell it is stored in
holds it unchanged; the bit value of a cell is defined for the two bit symbols alone. -/
def Obligations.PushedSymbolIsTheLowByteUnchanged : Prop :=
  (∀ w : CmdWord, w.getLsbD 10 = false → w.getLsbD 9 = false → w.getLsbD 8 = true →
    operand (decode w) = some (w.extractLsb' 0 8)) ∧
  (∀ (p : Params) (x : Symbol) (s : State), 1 ≤ p.cap → s.len ≤ p.cap →
    (pushSym p x s).win.getLast? = some x) ∧
  bitval 0x00 = some 0 ∧ bitval 0x01 = some 1 ∧ ∀ x : Symbol, 2 ≤ x.toNat → bitval x = none

/-- Nothing of a run survives a `RESET` (60_exceptions.md R133, 70_reset_and_hazards.md R150, R152): whatever the
block was, the state after it depends on the environment's fields alone, and with those at their reset
values it is the reset state. -/
def Obligations.NothingOfTheBlockSurvivesReset : Prop :=
  (∀ s s' : State, s.cmds = s'.cmds → s.draws = s'.draws → exec .reset s = exec .reset s') ∧
  (∀ s : State, s.cmds = State.reset.cmds → s.draws = State.reset.draws →
    exec .reset s = .next State.reset)
end

