-- ==== Sys2Proof/Laws/State.lean ====
section
/-! SUPPORT. One lemma per field per update of the state, so that no proof unfolds an update. -/

namespace Sys2Proof.Machine

/-! Fields after PUSH (40_window.md R72). -/

@[simp] theorem pushSym_win (p : Params) (x : Symbol) (s : State) :
    (pushSym p x s).win = pushWindow p.cap s.win x := rfl
@[simp] theorem pushSym_total (p : Params) (x : Symbol) (s : State) :
    (pushSym p x s).total = s.total + 1 := rfl
@[simp] theorem pushSym_halted (p : Params) (x : Symbol) (s : State) :
    (pushSym p x s).halted = s.halted := rfl
@[simp] theorem pushSym_err (p : Params) (x : Symbol) (s : State) :
    (pushSym p x s).err = s.err := rfl
@[simp] theorem pushSym_phase (p : Params) (x : Symbol) (s : State) :
    (pushSym p x s).phase = s.phase := rfl
@[simp] theorem pushSym_out (p : Params) (x : Symbol) (s : State) :
    (pushSym p x s).out = s.out := rfl
@[simp] theorem pushSym_cmds (p : Params) (x : Symbol) (s : State) :
    (pushSym p x s).cmds = s.cmds := rfl
@[simp] theorem pushSym_draws (p : Params) (x : Symbol) (s : State) :
    (pushSym p x s).draws = s.draws := rfl

/-! Fields after emit (00_scope.md R10). -/

@[simp] theorem emit_win (ev : Event) (s : State) :
    (emit ev s).win = s.win := rfl
@[simp] theorem emit_total (ev : Event) (s : State) :
    (emit ev s).total = s.total := rfl
@[simp] theorem emit_halted (ev : Event) (s : State) :
    (emit ev s).halted = s.halted := rfl
@[simp] theorem emit_err (ev : Event) (s : State) :
    (emit ev s).err = s.err := rfl
@[simp] theorem emit_phase (ev : Event) (s : State) :
    (emit ev s).phase = s.phase := rfl
@[simp] theorem emit_out (ev : Event) (s : State) :
    (emit ev s).out = s.out ++ [ev] := rfl
@[simp] theorem emit_cmds (ev : Event) (s : State) :
    (emit ev s).cmds = s.cmds := rfl
@[simp] theorem emit_draws (ev : Event) (s : State) :
    (emit ev s).draws = s.draws := rfl

/-! Fields after phase (10_state.md R23). -/

@[simp] theorem setPhase_win (ph : Phase) (s : State) :
    (setPhase ph s).win = s.win := rfl
@[simp] theorem setPhase_total (ph : Phase) (s : State) :
    (setPhase ph s).total = s.total := rfl
@[simp] theorem setPhase_halted (ph : Phase) (s : State) :
    (setPhase ph s).halted = s.halted := rfl
@[simp] theorem setPhase_err (ph : Phase) (s : State) :
    (setPhase ph s).err = s.err := rfl
@[simp] theorem setPhase_phase (ph : Phase) (s : State) :
    (setPhase ph s).phase = ph := rfl
@[simp] theorem setPhase_out (ph : Phase) (s : State) :
    (setPhase ph s).out = s.out := rfl
@[simp] theorem setPhase_cmds (ph : Phase) (s : State) :
    (setPhase ph s).cmds = s.cmds := rfl
@[simp] theorem setPhase_draws (ph : Phase) (s : State) :
    (setPhase ph s).draws = s.draws := rfl

/-! Fields after the sink answers (43_dispatch.md R113). -/

@[simp] theorem drawSink_win (s : State) :
    (drawSink s).win = s.win := rfl
@[simp] theorem drawSink_total (s : State) :
    (drawSink s).total = s.total := rfl
@[simp] theorem drawSink_halted (s : State) :
    (drawSink s).halted = s.halted := rfl
@[simp] theorem drawSink_err (s : State) :
    (drawSink s).err = s.err := rfl
@[simp] theorem drawSink_phase (s : State) :
    (drawSink s).phase = s.phase := rfl
@[simp] theorem drawSink_out (s : State) :
    (drawSink s).out = s.out := rfl
@[simp] theorem drawSink_cmds (s : State) :
    (drawSink s).cmds = s.cmds := rfl
@[simp] theorem drawSink_draws (s : State) :
    (drawSink s).draws = s.draws + 1 := rfl

/-! Fields after RESET (70_reset_and_hazards.md R150). -/

@[simp] theorem restart_win (s : State) :
    (restart s).win = [] := rfl
@[simp] theorem restart_total (s : State) :
    (restart s).total = 0 := rfl
@[simp] theorem restart_halted (s : State) :
    (restart s).halted = false := rfl
@[simp] theorem restart_err (s : State) :
    (restart s).err = .eNone := rfl
@[simp] theorem restart_phase (s : State) :
    (restart s).phase = .acc := rfl
@[simp] theorem restart_out (s : State) :
    (restart s).out = [] := rfl
@[simp] theorem restart_cmds (s : State) :
    (restart s).cmds = s.cmds := rfl
@[simp] theorem restart_draws (s : State) :
    (restart s).draws = s.draws := rfl

/-! Fields after the command port (30_encoding.md R57). -/

@[simp] theorem takeWord_win (s : State) :
    (takeWord s).win = s.win := rfl
@[simp] theorem takeWord_total (s : State) :
    (takeWord s).total = s.total := rfl
@[simp] theorem takeWord_halted (s : State) :
    (takeWord s).halted = s.halted := rfl
@[simp] theorem takeWord_err (s : State) :
    (takeWord s).err = s.err := rfl
@[simp] theorem takeWord_phase (s : State) :
    (takeWord s).phase = s.phase := rfl
@[simp] theorem takeWord_out (s : State) :
    (takeWord s).out = s.out := rfl
@[simp] theorem takeWord_cmds (s : State) :
    (takeWord s).cmds = s.cmds.tail := rfl
@[simp] theorem takeWord_draws (s : State) :
    (takeWord s).draws = s.draws := rfl

/-! Fields after the command port (30_encoding.md R57). -/

@[simp] theorem presentWord_win (w : CmdWord) (s : State) :
    (presentWord w s).win = s.win := rfl
@[simp] theorem presentWord_total (w : CmdWord) (s : State) :
    (presentWord w s).total = s.total := rfl
@[simp] theorem presentWord_halted (w : CmdWord) (s : State) :
    (presentWord w s).halted = s.halted := rfl
@[simp] theorem presentWord_err (w : CmdWord) (s : State) :
    (presentWord w s).err = s.err := rfl
@[simp] theorem presentWord_phase (w : CmdWord) (s : State) :
    (presentWord w s).phase = s.phase := rfl
@[simp] theorem presentWord_out (w : CmdWord) (s : State) :
    (presentWord w s).out = s.out := rfl
@[simp] theorem presentWord_cmds (w : CmdWord) (s : State) :
    (presentWord w s).cmds = w :: s.cmds := rfl
@[simp] theorem presentWord_draws (w : CmdWord) (s : State) :
    (presentWord w s).draws = s.draws := rfl

/-! Fields after the command port (30_encoding.md R57). -/

@[simp] theorem present_win (ws : List CmdWord) (s : State) :
    (present ws s).win = s.win := rfl
@[simp] theorem present_total (ws : List CmdWord) (s : State) :
    (present ws s).total = s.total := rfl
@[simp] theorem present_halted (ws : List CmdWord) (s : State) :
    (present ws s).halted = s.halted := rfl
@[simp] theorem present_err (ws : List CmdWord) (s : State) :
    (present ws s).err = s.err := rfl
@[simp] theorem present_phase (ws : List CmdWord) (s : State) :
    (present ws s).phase = s.phase := rfl
@[simp] theorem present_out (ws : List CmdWord) (s : State) :
    (present ws s).out = s.out := rfl
@[simp] theorem present_cmds (ws : List CmdWord) (s : State) :
    (present ws s).cmds = ws := rfl
@[simp] theorem present_draws (ws : List CmdWord) (s : State) :
    (present ws s).draws = s.draws := rfl

/-! Fields after the halt entry (60_exceptions.md R131). -/

@[simp] theorem raiseHalt_win (c : ErrCause) (s : State) :
    (raiseHalt c s).win = s.win := by
  unfold raiseHalt; split <;> rfl
@[simp] theorem raiseHalt_total (c : ErrCause) (s : State) :
    (raiseHalt c s).total = s.total := by
  unfold raiseHalt; split <;> rfl
@[simp] theorem raiseHalt_cmds (c : ErrCause) (s : State) :
    (raiseHalt c s).cmds = s.cmds := by
  unfold raiseHalt; split <;> rfl
@[simp] theorem raiseHalt_draws (c : ErrCause) (s : State) :
    (raiseHalt c s).draws = s.draws := by
  unfold raiseHalt; split <;> rfl
@[simp] theorem raiseHalt_halted (c : ErrCause) (s : State) : (raiseHalt c s).halted = true := by
  unfold raiseHalt; split
  · assumption
  · rfl
theorem raiseHalt_of_halted (c : ErrCause) {s : State} (h : s.halted = true) : raiseHalt c s = s := by
  simp [raiseHalt, h]
/-- On a running block the halt entry does exactly this (60_exceptions.md R131). -/
theorem raiseHalt_of_running (c : ErrCause) {s : State} (h : s.halted = false) :
    raiseHalt c s =
      { s with halted := true, err := c, phase := .acc, out := s.out ++ [.halt c] } := by
  simp [raiseHalt, emit, h]

end Sys2Proof.Machine
end

