-- ==== Sys2Proof/Laws/Ops.lean ====
section
/-! SUPPORT. For each shared operation, what it can do, said once. -/

namespace Sys2Proof.Machine

/-- PUSH as one expression (40_window.md R72): append, then keep all but the overflow. -/
theorem pushWindow_eq_drop (cap : Nat) (w : Window) (x : Symbol) (h : w.length ≤ cap) :
    pushWindow cap w x = (w ++ [x]).drop (w.length + 1 - cap) := by
  unfold pushWindow
  by_cases hc : cap < (w ++ [x]).length
  · rw [if_pos hc]
    simp only [List.length_append, List.length_cons, List.length_nil] at hc
    congr 1
    omega
  · rw [if_neg hc]
    simp only [List.length_append, List.length_cons, List.length_nil] at hc
    rw [show w.length + 1 - cap = 0 by omega, List.drop_zero]

/-- The fill count saturates at the capacity (40_window.md R72, R76). -/
theorem pushWindow_length (cap : Nat) (w : Window) (x : Symbol) (h : w.length ≤ cap) :
    (pushWindow cap w x).length = min (w.length + 1) cap := by
  rw [pushWindow_eq_drop cap w x h]
  simp only [List.length_drop, List.length_append, List.length_cons, List.length_nil]
  omega

/-- `last k S` has at most `k` symbols (00_scope.md R10). -/
theorem lastN_length (k : Nat) (S : List Symbol) : (lastN k S).length = min k S.length := by
  simp only [lastN, List.length_drop]
  omega

/-- `last k S` with one truncated subtraction. -/
theorem lastN_eq_drop (k : Nat) (S : List Symbol) : lastN k S = S.drop (S.length - k) := by
  unfold lastN
  congr 1
  omega

/-- PUSH takes the last `N` symbols of a stream to the last `N` of the stream one longer
(10_state.md R16). -/
theorem pushWindow_lastN (N : Nat) (xs : List Symbol) (x : Symbol) :
    pushWindow N (lastN N xs) x = lastN N (xs ++ [x]) := by
  rw [pushWindow_eq_drop _ _ _ (by rw [lastN_length]; omega), lastN_length, lastN_eq_drop,
    lastN_eq_drop]
  have ha : xs.drop (xs.length - N) ++ [x] = (xs ++ [x]).drop (xs.length - N) :=
    (List.drop_append_of_le_length (by omega)).symm
  simp only [List.length_append, List.length_cons, List.length_nil]
  rw [ha, List.drop_drop]
  congr 1
  omega

/-- Every operation on the window keeps its canonical form: PUSH. -/
theorem pushSym_keeps_memory_wf (p : Params) (x : Symbol) (s : State)
    (h : Memory.wf p.cap s.win = true) : Memory.wf p.cap (pushSym p x s).win = true := by
  simp only [Memory.wf, decide_eq_true_eq] at *
  rw [pushSym_win, pushWindow_length _ _ _ h]
  omega

/-- Every operation on the window keeps its canonical form: RESET gives it. -/
theorem restart_memory_wf (cap : Nat) (s : State) : Memory.wf cap (restart s).win = true := by
  simp [Memory.wf]

/-- The window after reset has its canonical form. -/
theorem reset_memory_wf (cap : Nat) : Memory.wf cap State.reset.win = true := by
  simp [Memory.wf, State.reset]

/-- `ready` is both bits (43_dispatch.md R119). -/
theorem ready_iff (s : State) : ready s = true ↔ s.phase = .acc ∧ s.halted = false := by
  simp [ready]

/-- CHECK as the rule's one-line form (41_sync_matcher.md R86). -/
theorem check_iff (p : Params) (S : List Symbol) : check p S = true ↔ S.take p.patLen = p.pat := by
  simp [check]

/-- A short buffer is no match (41_sync_matcher.md R85). -/
theorem check_short (p : Params) (S : List Symbol) (h : S.length < p.patLen) : check p S = false := by
  rw [Bool.eq_false_iff]
  intro hc
  have hl := congrArg List.length ((check_iff p S).1 hc)
  simp only [List.length_take, Params.patLen] at hl h
  omega

/-- The candidate's length (42_delimiter.md R97). -/
theorem extract_length (p : Params) (S : List Symbol) : (extract p S).length = candLen p S := by
  simp [extract, candLen]

/-- The reporting half of DISPATCH on a running block, case by case (43_dispatch.md R113,
60_exceptions.md R129). -/
theorem reportResult_cases (ok : BitVec 2) (f : Fields) (s : State) (h : s.halted = false) :
    (conOk ok = false ∧ reportResult ok f s =
      { s with halted := true, err := .eSink, phase := .acc, out := s.out ++ [.halt .eSink] }) ∨
    (conOk ok = true ∧ logOk ok = false ∧ reportResult ok f s =
      { s with halted := true, err := .eSink, phase := .acc,
               out := s.out ++ [.report f, .halt .eSink] }) ∨
    (conOk ok = true ∧ logOk ok = true ∧ reportResult ok f s =
      { s with out := s.out ++ [.report f, .log f] }) := by
  unfold reportResult
  cases hc : conOk ok
  · left
    simp [raiseHalt, emit, h]
  · cases hl : logOk ok
    · right; left
      simp [raiseHalt, emit, h]
    · right; right
      simp [emit]

/-- DISPATCH on a running block, case by case (43_dispatch.md R111, R112, R113). -/
theorem dispatch_cases (e : Env) (T : Nat) (c : List Symbol) (s : State) (h : s.halted = false) :
    ((e.dec c).valid = false ∧ dispatch e T c s = { s with out := s.out ++ [.cand T c] }) ∨
    ((e.dec c).valid = true ∧ conOk (e.sinks s.draws) = false ∧ dispatch e T c s =
      { s with halted := true, err := .eSink, phase := .acc, draws := s.draws + 1,
               out := s.out ++ [.cand T c, .halt .eSink] }) ∨
    ((e.dec c).valid = true ∧ conOk (e.sinks s.draws) = true ∧ logOk (e.sinks s.draws) = false ∧
      dispatch e T c s =
        { s with halted := true, err := .eSink, phase := .acc, draws := s.draws + 1,
                 out := s.out ++ [.cand T c, .report (e.dec c).fields, .halt .eSink] }) ∨
    ((e.dec c).valid = true ∧ conOk (e.sinks s.draws) = true ∧ logOk (e.sinks s.draws) = true ∧
      dispatch e T c s =
        { s with draws := s.draws + 1,
                 out := s.out ++ [.cand T c, .report (e.dec c).fields, .log (e.dec c).fields] }) := by
  unfold dispatch
  cases hv : (e.dec c).valid
  · exact .inl ⟨rfl, rfl⟩
  · refine .inr ?_
    rw [if_pos rfl]
    rcases reportResult_cases (e.sinks s.draws) (e.dec c).fields (drawSink (emit (.cand T c) s)) h
      with ⟨hc, hr⟩ | ⟨hc, hl, hr⟩ | ⟨hc, hl, hr⟩
    · refine .inl ⟨rfl, hc, ?_⟩
      rw [hr]
      simp
    · refine .inr (.inl ⟨rfl, hc, hl, ?_⟩)
      rw [hr]
      simp
    · refine .inr (.inr ⟨rfl, hc, hl, ?_⟩)
      rw [hr]
      simp [drawSink, emit]

/-- A push that is not accepted has no effect (43_dispatch.md R119, 60_exceptions.md R132). -/
theorem stepSym_of_not_ready (e : Env) (x : Symbol) {s : State} (h : ready s = false) :
    stepSym e x s = s := by
  simp [stepSym, h]

/-- STEP on a ready block, case by case: no match, an invalid result, a console failure, a log failure,
a reported result (43_dispatch.md R107). -/
theorem stepSym_cases (e : Env) (x : Symbol) (s : State) (h : ready s = true) :
    let W := pushWindow e.params.cap s.win x
    let c := extract e.params W
    let T := s.total + 1
    (check e.params W = false ∧ stepSym e x s = { s with win := W, total := T }) ∨
    (check e.params W = true ∧ (e.dec c).valid = false ∧
      stepSym e x s = { s with win := W, total := T, out := s.out ++ [.cand T c] }) ∨
    (check e.params W = true ∧ (e.dec c).valid = true ∧ conOk (e.sinks s.draws) = false ∧
      stepSym e x s =
        { s with win := W, total := T, halted := true, err := .eSink, draws := s.draws + 1,
                 out := s.out ++ [.cand T c, .halt .eSink] }) ∨
    (check e.params W = true ∧ (e.dec c).valid = true ∧ conOk (e.sinks s.draws) = true ∧
      logOk (e.sinks s.draws) = false ∧ stepSym e x s =
        { s with win := W, total := T, halted := true, err := .eSink, draws := s.draws + 1,
                 out := s.out ++ [.cand T c, .report (e.dec c).fields, .halt .eSink] }) ∨
    (check e.params W = true ∧ (e.dec c).valid = true ∧ conOk (e.sinks s.draws) = true ∧
      logOk (e.sinks s.draws) = true ∧ stepSym e x s =
        { s with win := W, total := T, draws := s.draws + 1,
                 out := s.out ++ [.cand T c, .report (e.dec c).fields, .log (e.dec c).fields] }) := by
  intro W c T
  obtain ⟨hp, hh⟩ := (ready_iff s).1 h
  have hs : stepSym e x s = checkAndDispatch e (pushSym e.params x s) := by simp [stepSym, h]
  rw [hs]
  cases hk : check e.params W
  · refine .inl ⟨rfl, ?_⟩
    exact if_neg (Bool.eq_false_iff.1 hk)
  · refine .inr ?_
    have hd : checkAndDispatch e (pushSym e.params x s) =
        setPhase .acc (dispatch e T c (setPhase .disp (pushSym e.params x s))) := if_pos hk
    rw [hd]
    rcases dispatch_cases e T c (setPhase .disp (pushSym e.params x s)) hh
      with ⟨hv, hr⟩ | ⟨hv, hc, hr⟩ | ⟨hv, hc, hl, hr⟩ | ⟨hv, hc, hl, hr⟩
    · refine .inl ⟨rfl, hv, ?_⟩
      rw [hr]
      simp [setPhase, hp, W, T]
    · refine .inr (.inl ⟨rfl, hv, hc, ?_⟩)
      rw [hr]
      simp [setPhase, hp, W, T]
    · refine .inr (.inr (.inl ⟨rfl, hv, hc, hl, ?_⟩))
      rw [hr]
      simp [setPhase, hp, W, T]
    · refine .inr (.inr (.inr ⟨rfl, hv, hc, hl, ?_⟩))
      rw [hr]
      simp [setPhase, hp, W, T]

end Sys2Proof.Machine
end

