-- ==== Sys2Proof/Laws/PerInstr.lean ====
section
/-! SUPPORT. Statements about every command as syntax, one lemma per constructor. -/

namespace Sys2Proof.Laws.EncodedInItsRow

/-- The canonical word of a well-formed command lies in a row of the table under the command's mnemonic,
and every row it lies in carries that mnemonic (30_encoding.md R59). -/
def Statement (i : Instr) : Prop :=
  i.wf = true → (opcodeRows.any fun r => r.covers (encode i)) = true ∧
    (opcodeRows.all fun r => !r.covers (encode i) || r.mnemonic == i.mnemonic) = true

theorem reset : Statement .reset := by unfold Statement; decide

theorem fail : Statement .fail := by unfold Statement; decide

theorem nop : Statement .nop := by unfold Statement; decide

theorem push0 : Statement .push0 := by unfold Statement; decide

theorem push1 : Statement .push1 := by unfold Statement; decide

/-- The row check of one symbol byte, as a closed fact about numerals. -/
def inRow (x : Symbol) : Bool :=
  isBit x || ((opcodeRows.any fun r => r.covers (pushWord x)) &&
    (opcodeRows.all fun r => !r.covers (pushWord x) || r.mnemonic == "PUSHX"))

theorem inRow_all : ∀ n : Fin 256, inRow (BitVec.ofFin n) = true := by decide +kernel

theorem pushx (sym : Symbol) : Statement (.pushx sym) := by
  intro h
  have hr : inRow sym = true := inRow_all sym.toFin
  have hb : isBit sym = false := by simpa [Instr.wf] using h
  simpa [inRow, hb, encode, Instr.mnemonic] using hr

end Sys2Proof.Laws.EncodedInItsRow
end

