-- ==== Sys2Proof/Laws/Step.lean ====
section
/-! SUPPORT. What a command and a step can do, said once. -/

namespace Sys2Proof.Machine

/-- The commands without their outcome wrapper: what the next state is. -/
theorem exec_cases (i : Instr) (s : State) :
    (i = .reset ∧ exec i s = .next (restart s)) ∨
    (i = .fail ∧ ready s = true ∧ exec i s = .next (raiseHalt .eSrc s)) ∨
    (i = .fail ∧ ready s = false ∧ exec i s = .next s) ∨
    (i = .nop ∧ exec i s = .next s) ∨
    (∃ x, operand i = some x ∧ exec i s = .next (stepSym Config.env x s)) := by
  cases i with
  | reset => exact .inl ⟨rfl, rfl⟩
  | fail =>
    cases h : ready s
    · exact .inr (.inr (.inl ⟨rfl, rfl, by simp [exec, execFail, h]⟩))
    · exact .inr (.inl ⟨rfl, rfl, by simp [exec, execFail, h]⟩)
  | nop => exact .inr (.inr (.inr (.inl ⟨rfl, rfl⟩)))
  | push0 => exact .inr (.inr (.inr (.inr ⟨sym0, rfl, rfl⟩)))
  | push1 => exact .inr (.inr (.inr (.inr ⟨sym1, rfl, rfl⟩)))
  | pushx x => exact .inr (.inr (.inr (.inr ⟨x, rfl, rfl⟩)))

/-- A step is its command on the rest of the state. -/
theorem step_eq (s : State) : step s = exec (decode (portWord s)) (takeWord s) := rfl

/-- The outputs of a command that pushes `x` are those of STEP `x` (30_encoding.md R57). -/
theorem outputs_of_operand (e : Env) {i : Instr} {x : Symbol} (h : operand i = some x) (s : State) :
    outputs e i s = symOutputs e x s := by
  cases i with
  | push0 => cases h; rfl
  | push1 => cases h; rfl
  | pushx y => cases h; rfl
  | reset => cases h
  | fail => cases h
  | nop => cases h

/-- A command that pushes `x` is STEP `x` (43_dispatch.md R107). -/
theorem exec_of_operand {i : Instr} {x : Symbol} (h : operand i = some x) (s : State) :
    exec i s = .next (stepSym Config.env x s) := by
  cases i with
  | push0 => cases h; rfl
  | push1 => cases h; rfl
  | pushx y => cases h; rfl
  | reset => cases h
  | fail => cases h
  | nop => cases h

end Sys2Proof.Machine
end

