-- ==== Sys2Proof/Laws/Run.lean ====
section
/-! SUPPORT. Runs, one command at a time (43_dispatch.md R118). -/

namespace Sys2Proof.Machine

/-- A run of the machine takes its first step first. -/
theorem core_run_succ (n : Nat) {s t : State} (h : step s = .next t) :
    Host.Core.run Sys2Proof.core (n + 1) s = Host.Core.run Sys2Proof.core n t := by
  have h' : Sys2Proof.core.step s = .next t := h
  simp only [Host.Core.run]
  rw [h']

/-- The empty run. -/
theorem run_nil (s : State) : run s [] = .next (present [] s) := rfl

/-- The step that runs the first of the words presented. -/
theorem step_present_cons (s : State) (w : CmdWord) (ws : List CmdWord) :
    step (present (w :: ws) s) = exec (decode w) (present ws s) := rfl

/-- A run does not depend on the words that were queued before it. -/
theorem run_present (s : State) (us ws : List CmdWord) : run (present us s) ws = run s ws := rfl

/-- STEP leaves the queue of words alone and does not look at it. -/
theorem stepSym_present (e : Env) (x : Symbol) (s : State) (ws : List CmdWord) :
    stepSym e x (present ws s) = present ws (stepSym e x s) := by
  cases hr : ready s
  · have hr' : ready (present ws s) = false := hr
    rw [stepSym_of_not_ready e x hr, stepSym_of_not_ready e x hr']
  · have h1 := stepSym_cases e x s hr
    have h2 := stepSym_cases e x (present ws s) hr
    simp only [present_win, present_draws] at h2
    rcases h1 with ⟨hc, h⟩ | ⟨hc, hv, h⟩ | ⟨hc, hv, ho, h⟩ | ⟨hc, hv, ho, hl, h⟩ |
      ⟨hc, hv, ho, hl, h⟩ <;> simp [*] at h2 <;> rw [h2, h] <;> simp [present]

/-- A command leaves the queue of words alone and does not look at it. -/
theorem exec_present (i : Instr) (s t : State) (ws : List CmdWord) (h : exec i s = .next t) :
    exec i (present ws s) = .next (present ws t) := by
  rcases exec_cases i s with ⟨hi, he⟩ | ⟨hi, hr, he⟩ | ⟨hi, hr, he⟩ | ⟨hi, he⟩ | ⟨x, hx, he⟩
  · rw [he] at h
    cases h
    subst hi
    rfl
  · rw [he] at h
    cases h
    subst hi
    have hh := ((ready_iff s).1 hr).2
    have hr' : ready (present ws s) = true := hr
    have hh' : (present ws s).halted = false := hh
    simp only [exec, execFail, hr', if_true]
    rw [raiseHalt_of_running .eSrc hh, raiseHalt_of_running .eSrc hh']
    rfl
  · rw [he] at h
    cases h
    subst hi
    have hr' : ready (present ws s) = false := hr
    simp [exec, execFail, hr']
  · rw [he] at h
    cases h
    subst hi
    rfl
  · rw [he] at h
    cases h
    rw [exec_of_operand hx, stepSym_present]

end Sys2Proof.Machine
end

