-- ==== Sys2Proof/Tests/Slice0.lean ====
section
/-! SUPPORT. Tests whose expected results come from spec/95_test_vectors.md (V and P numbers) or are worked out
from the rules by hand, and for each statement with hypotheses a state that meets them. -/

namespace Sys2Proof.Tests

open Sys2Proof.Machine

/-- A running block that has been fed exactly the window's symbols since reset. -/
def holding (w : Window) : State := { State.reset with win := w, total := w.length }

/-- The pattern of 30_encoding.md R55, written out again. -/
def pattern : List Symbol := [1, 0, 1, 0, 1, 0, 1, 1, 1, 0, 0, 0, 1, 0, 0, 1, 0]

/-- The fields `f` of the vectors. -/
def someFields : Fields := ⟨1, 2, 3, 4, 5, 6, 7, 8⟩

/-- `DEC_e` of V31: valid exactly on the empty candidate; the sinks always answer `ok`. -/
def emptyIsValid (ok : BitVec 2) : Env where
  params := Params.reference
  dec := fun c => ⟨c.isEmpty, someFields⟩
  sinks := fun _ => ok

/-- `DEC_no` of 95_test_vectors.md 2. -/
def neverValid : Env where
  params := Params.reference
  dec := fun _ => ⟨false, someFields⟩
  sinks := fun _ => 0

/-- The next state of an outcome. -/
def nextOf (o : Host.Outcome State Fault Refusal) : Option State :=
  match o with
  | .next s => some s
  | _ => none

/-! Ill-formed terms are refused by the checks (30_encoding.md R59, 00_scope.md R9). -/

theorem test_pushx_zero_is_ill_formed : (Instr.pushx 0x00).wf = false := by decide
theorem test_pushx_one_is_ill_formed : (Instr.pushx 0x01).wf = false := by decide
theorem test_pushx_two_is_well_formed : (Instr.pushx 0x02).wf = true := by decide
theorem test_zero_capacity_is_declined : (Params.mk 0 [1] 6).problem = some .capacityZero := by decide
theorem test_empty_pattern_is_declined : (Params.mk 256 [] 6).problem = some .patternEmpty := by decide
theorem test_long_pattern_is_legal : (Params.mk 1 [1, 0] 6).wf = true := by decide
theorem test_body_of_233_is_visible : Params.reference.bodyVisible 233 = true := by decide
theorem test_body_of_234_is_not : Params.reference.bodyVisible 234 = false := by decide
theorem test_reference_can_match : Params.reference.canMatch = true := by decide

/-! Decoding, from the bits of 30_encoding.md R59 (95_test_vectors.md 2.7). -/

theorem test_decode_nop_with_symbol_bits : decode 0b00011111111 = .nop := by decide
theorem test_decode_push0 : decode 0b00100000000 = .push0 := by decide
theorem test_decode_push1 : decode 0b00100000001 = .push1 := by decide
theorem test_decode_pushx_02 : decode 0b00100000010 = .pushx 0x02 := by decide
theorem test_decode_pushx_30 : decode 0b00100110000 = .pushx 0x30 := by decide
theorem test_decode_pushx_80 : decode 0b00110000000 = .pushx 0x80 := by decide
theorem test_decode_pushx_ff : decode 0b00111111111 = .pushx 0xFF := by decide
theorem test_decode_fail : decode 0b01010100101 = .fail := by decide
theorem test_decode_fail_over_symbol : decode 0b01100000001 = .fail := by decide
theorem test_decode_reset_over_symbol : decode 0b10100000001 = .reset := by decide
theorem test_decode_reset_over_fail : decode 0b11000000000 = .reset := by decide
theorem test_decode_twelfth_bit_refused : decodeTableWord 16 0x800 = none := by decide
theorem test_encode_pushx : encode (.pushx 0xA5) = 0b00110100101 := by decide
theorem test_table_has_twelve_rows : opcodeRows.length = 12 := by decide

/-! Constants (00_scope.md R7, 30_encoding.md R55). -/

theorem test_pattern_literal : Params.reference.pat = pattern := by decide
theorem test_derived_parameters :
    Params.reference.patLen = 17 ∧ Params.reference.skip = 23 ∧ Params.reference.candMax = 233 := by
  decide
theorem test_pattern_packs_to_0x15712 :
    pattern.foldl (fun n x => 2 * n + x.toNat) 0 = 0x15712 := by decide

/-! The window (V1, V5, V6, V8). -/

theorem test_v1_push1 :
    (nextOf (exec .push1 (holding [1, 0]))).map (fun t => (t.win, t.total)) =
      some ([1, 0, 1], 3) := by decide
theorem test_push0 :
    (nextOf (exec .push0 (holding [1]))).map (fun t => (t.win, t.out)) = some ([1, 0], []) := by decide
theorem test_v5_pushx_is_stored_unchanged :
    (nextOf (exec (.pushx 0xFF) (holding [1, 0x41]))).map (·.win) = some [1, 0x41, 0xFF] := by decide
theorem test_v6_fills : pushWindow 4 [1, 2, 3] 4 = [1, 2, 3, 4] := by decide
theorem test_v6_evicts_the_oldest : pushWindow 4 [1, 2, 3, 4] 5 = [2, 3, 4, 5] := by decide
theorem test_v8_ring_wraps :
    ringPush 4 2 { mem := [9, 9, 1, 9], wp := 3, len := 1 } =
      { mem := [9, 9, 1, 2], wp := 0, len := 2 } := by decide
theorem test_v8_ring_snapshot :
    ringSnapshot 4 { mem := [3, 4, 5, 2], wp := 3, len := 4 } = [2, 3, 4, 5] := by decide

/-! CHECK (V10 to V19b) and EXTRACT (V28, V29b). -/

theorem test_v10_match : check Params.reference pattern = true := by decide
theorem test_v11_short_buffer : check Params.reference (pattern.take 16) = false := by decide
theorem test_v13_position_one : check Params.reference (0 :: pattern) = false := by decide
theorem test_v14_last_symbol_flipped :
    check Params.reference (pattern.take 16 ++ [1]) = false := by decide
theorem test_v15_non_bit_symbol : check Params.reference (pattern.set 5 0x02) = false := by decide
theorem test_v19_ascii : check Params.reference (pattern.map (· + 0x30)) = false := by decide
theorem test_v28_candidate :
    extract Params.reference (pattern ++ [1, 1, 1, 1, 1, 1] ++ [1, 1, 0, 0]) = [1, 1, 0, 0] := by
  decide
theorem test_v29b_candidate_is_empty : extract Params.reference (pattern ++ [1, 0]) = [] := by decide
theorem test_comparators_v10 : comparatorMatch Params.reference pattern = true := by decide

/-! STEP and DISPATCH (V30 to V35): the push that completes the pattern. -/

theorem test_v30_invalid :
    (stepSym neverValid 0 (holding (pattern.take 16))).out = [.cand 17 []] := by decide
theorem test_v31_valid :
    (stepSym (emptyIsValid 3) 0 (holding (pattern.take 16))).out =
      [.cand 17 [], .report someFields, .log someFields] := by decide
theorem test_v32_console_fails :
    (fun t : State => (t.out, t.halted, t.err)) (stepSym (emptyIsValid 2) 0 (holding (pattern.take 16))) =
      ([.cand 17 [], .halt .eSink], true, .eSink) := by decide
theorem test_v33_log_fails :
    (fun t : State => (t.out, t.halted, t.err)) (stepSym (emptyIsValid 1) 0 (holding (pattern.take 16))) =
      ([.cand 17 [], .report someFields, .halt .eSink], true, .eSink) := by decide
theorem test_v34_console_masks_log :
    (stepSym (emptyIsValid 0) 0 (holding (pattern.take 16))).out = [.cand 17 [], .halt .eSink] := by
  decide
theorem test_v31_ports :
    (fun o : Ports => (o.matchOut, o.candLen, o.report, o.log))
      (outputs (emptyIsValid 3) .push0 (holding (pattern.take 16))) = (true, some 0, true, true) := by
  decide
theorem test_v33_ports :
    (fun o : Ports => (o.report, o.log, o.ready, o.err))
      (outputs (emptyIsValid 1) .push0 (holding (pattern.take 16))) = (true, false, false, 2) := by
  decide

/-! Halt, reset, idle (V2, V50 to V57, P3, P4). -/

theorem test_v50_fail :
    (nextOf (exec .fail (holding [1, 0, 1]))).map (fun t => (t.halted, t.err.code, t.out)) =
      some (true, 1, [.halt .eSrc]) := by decide
theorem test_v51_push_while_halted :
    (nextOf (exec .push1 { holding [] with halted := true, err := .eSrc })).map (·.total) =
      some 0 := by decide
theorem test_v57_fail_keeps_the_first_cause :
    (nextOf (exec .fail { holding [] with halted := true, err := .eSink })).map (·.err) =
      some .eSink := by decide
theorem test_v52_reset :
    nextOf (exec .reset { holding [1, 0, 1] with halted := true, err := .eSrc, out := [.halt .eSrc] }) =
      some State.reset := by decide
theorem test_v2_nop : nextOf (exec .nop (holding [1])) = some (holding [1]) := by decide
theorem test_p4_word_301_is_fail :
    (nextOf (step (State.withFetchWord (holding [1]) 16 0x301))).map (fun t => (t.err, t.total)) =
      some (.eSrc, 1) := by decide
theorem test_word_17f_is_fetched_and_run :
    nextOf (step (State.withFetchWord State.reset 16 0x17F)) = some (holding [0x7F]) := by decide

/-! Traces (30_encoding.md R65, R66). -/

theorem test_chunk_words : (Trace.chunk [1, 0, 0x41]).expand = [0x101, 0x100, 0x141] := by decide
theorem test_rep_and_idle :
    (Trace.seq (.rep 2 (.push 1)) (.idle 2)).expand = [0x101, 0x101, 0x000, 0x000] := by decide
theorem test_text_of_pushx : instrText (.pushx 0x4F) = "PUSHX #4F" := by decide

/-! For each statement with hypotheses, a case that meets them. -/

theorem witness_DecodeInvertsEncode : (Instr.pushx 0xFF).wf = true ∧ (Instr.pushx 0x02).wf = true := by
  decide
theorem witness_RstDominatesSrcFailDominatesSymValid :
    (0x7FF : CmdWord).getLsbD 10 = true ∧ (0x3FF : CmdWord).getLsbD 10 = false ∧
      (0x3FF : CmdWord).getLsbD 9 = true := by decide
theorem witness_TableWordIsFetchedAndRun :
    0x7FF < 2 ^ 11 ∧ 2 ^ 11 ≤ 0x800 ∧ 0x800 < 2 ^ 16 := by decide
theorem witness_StepRunsThePresentedCommand :
    (present [0x101] State.reset).cmds = 0x101 :: [] ∧ State.reset.cmds = [] := by decide
theorem witness_ResetRestartsTheBlock : (0x400 : CmdWord).getLsbD 10 = true := by decide
theorem witness_CellsBeyondLenHoldNoValue :
    0 < (holding [1]).len ∧ (holding [1]).len ≤ 1 := by decide
theorem witness_FailHaltsAReadyBlock : ready (holding [1, 0]) = true := by decide

/-- A block halted by `FAIL`. -/
def haltedBlock : State := { State.reset with halted := true, err := .eSrc, out := [.halt .eSrc] }

theorem witness_HaltedBlockTakesOnlyReset : haltedBlock.halted = true ∧ Instr.push1 ≠ .reset := by
  decide
theorem witness_CommandsAtNotReadyHaveNoEffect :
    ready haltedBlock = false ∧ ready (setPhase .disp State.reset) = false ∧ Instr.fail ≠ .reset := by
  decide
theorem witness_OnlyResetLeavesAHalt :
    (present [0x400] haltedBlock).halted = true ∧
      step (present [0x400] haltedBlock) = .next State.reset ∧ State.reset.halted = false :=
  ⟨rfl, rfl, rfl⟩
theorem witness_HaltHasOneOfTwoCauses :
    (present [0x200] State.reset).halted = false ∧
      step (present [0x200] State.reset) = .next haltedBlock ∧ haltedBlock.halted = true :=
  ⟨rfl, rfl, rfl⟩
theorem witness_PushCommandDoesTheStep :
    operand (.pushx 0x41) = some 0x41 ∧ operand .push0 = some 0 ∧ operand .push1 = some 1 ∧
      ready State.reset = true ∧ State.reset.win.length ≤ 256 ∧
      ready (holding (List.replicate 256 1)) = true ∧
      (holding (List.replicate 256 1)).win.length ≤ 256 := by decide +kernel
theorem witness_PushPortsShowTheStep_match :
    ready (holding (pattern.take 16)) = true ∧
      (pushWindow 256 (holding (pattern.take 16)).win 0).take 17 = Params.reference.pat := by decide
theorem witness_PushPortsShowTheStep_no_match :
    ready State.reset = true ∧ (pushWindow 256 State.reset.win 0).take 17 ≠ Params.reference.pat := by
  decide
theorem witness_PushAppendsAndEvictsCellByCell :
    1 ≤ (Params.mk 4 pattern 6).cap ∧ (holding [1, 2, 3]).len < 4 ∧ (holding [1, 2, 3, 4]).len = 4 := by
  decide
theorem witness_invariants_at_reset_with_words (ws : List CmdWord) :
    MachineInv (present ws State.reset) ∧ HoldsStream (present ws State.reset) [] :=
  ⟨⟨rfl, by simp [State.reset], fun _ => rfl⟩, fun _ => ⟨rfl, rfl⟩⟩
theorem witness_StepKeepsTheWindowLaw :
    step (present [0x101] State.reset) = .next (holding [1]) ∧ (holding [1]).halted = false :=
  ⟨rfl, rfl⟩
theorem witness_WindowLawOverEveryRun :
    run State.reset [0x101] = .next (holding [1]) ∧ (holding [1]).halted = false :=
  ⟨core_run_succ 0 (s := present [0x101] State.reset) (t := holding [1]) rfl, rfl⟩
theorem witness_NonBitSymbolsNeverMatch :
    (pattern.set 16 0x02)[16]? = some 0x02 ∧ isBit 0x02 = false ∧
      (pattern ++ [0x02]).take 17 = (pattern ++ [0x03]).take 17 := by decide
theorem witness_MatchInStreamCoordinates :
    operand .push0 = some 0 ∧ ready (holding (pattern.take 16)) = true ∧
      (holding (pattern.take 16)).win = lastN 256 (pattern.take 16) := by decide

/-- A stream of the given length that begins with the pattern and goes on with zeros. -/
def paddedPattern (n : Nat) : List Symbol := pattern ++ List.replicate (n - 17) 0

theorem witness_FillPhaseMatchesRepeat_first :
    ready (holding (pattern.take 16)) = true ∧
      (holding (pattern.take 16)).win = lastN 256 (pattern.take 16) ∧
      (pattern.take 16 ++ [0]).take 17 = Params.reference.pat ∧ (pattern.take 16).length ≤ 255 := by
  decide
theorem witness_FillPhaseMatchesRepeat_last :
    ready (holding (paddedPattern 255)) = true ∧
      (holding (paddedPattern 255)).win = lastN 256 (paddedPattern 255) ∧
      (paddedPattern 255 ++ [0]).take 17 = Params.reference.pat ∧
      (paddedPattern 255).length = 255 := by decide +kernel
theorem witness_FillPhaseMatchesRepeat_stops :
    (holding (paddedPattern 256)).win = lastN 256 (paddedPattern 256) ∧
      (paddedPattern 256 ++ [0]).take 17 = Params.reference.pat ∧
      (paddedPattern 256).length = 256 := by decide +kernel
theorem witness_FillPhaseMatchesRepeat_other_start :
    (holding [0]).win = lastN 256 [0] ∧ ([0] ++ [1]).take 17 ≠ Params.reference.pat := by decide
theorem witness_SteadyStateDelivery :
    ready (holding (paddedPattern 255)) = true ∧
      (holding (paddedPattern 255)).win = lastN 256 (paddedPattern 255) ∧
      (paddedPattern 255).length + 1 = 0 + 256 ∧
      ∀ k, k < 17 → (paddedPattern 255 ++ [0])[0 + k]? = Params.reference.pat[k]? := by decide +kernel

/-- The stream of V24c, whose pattern stands at index 0 and again at index 15. -/
def overlapping : List Symbol := pattern.take 15 ++ pattern ++ List.replicate 223 0

theorem witness_FullWindowMatchesFifteenApart :
    255 ≤ overlapping.length ∧ (holding overlapping).win = lastN 256 overlapping ∧
      ready { holding [] with win := lastN 256 (overlapping ++ 0 :: List.replicate 14 0) } = true ∧
      (outputs neverValid .push0 (holding overlapping)).matchOut = true ∧
      (outputs neverValid .push0
        { holding [] with win := lastN 256 (overlapping ++ 0 :: List.replicate 14 0) }).matchOut = true := by
  decide +kernel
theorem witness_ExtractIsTheTailAfterSkip :
    0 < candLen Params.reference (paddedPattern 24) ∧ (paddedPattern 23).length ≤ 23 := by decide
theorem witness_CandidateLengthFitsItsPort :
    (holding (pattern.take 16)).win.length ≤ 256 ∧
      (outputs neverValid .push0 (holding (pattern.take 16))).matchOut = true ∧
      (holding (0 :: paddedPattern 255)).win.length = 256 ∧
      (outputs neverValid .push0 (holding (0 :: paddedPattern 255))).matchOut = true := by
  decide +kernel
theorem witness_SkippedSymbolsAreNotExamined :
    pattern.length = 17 ∧ [1, 0, 1, 0, 1, 0].length = 6 ∧ [2, 2, 2, 2, 2, 2].length = 6 := by decide
theorem witness_DispatchRoutesTheResult :
    State.reset.halted = false ∧ (neverValid.dec []).valid = false ∧
      ((emptyIsValid 3).dec []).valid = true ∧ conOk ((emptyIsValid 2).sinks 0) = false ∧
      conOk ((emptyIsValid 1).sinks 0) = true ∧ logOk ((emptyIsValid 1).sinks 0) = false ∧
      conOk ((emptyIsValid 3).sinks 0) = true ∧ logOk ((emptyIsValid 3).sinks 0) = true := by decide
theorem witness_InvalidDecodeIsDroppedSilently :
    ready (holding (pattern.take 16)) = true ∧
      check Params.reference (pushWindow 256 (holding (pattern.take 16)).win 0) = true ∧
      (neverValid.dec []).valid = false := by decide
theorem witness_StepDependsOnWindowSymbolAndAnswers :
    (emptyIsValid 3).params = Params.reference ∧
      ready { holding (pattern.take 16) with out := [.cand 3 []], draws := 5 } = true ∧
      ((emptyIsValid 3).dec []) = (⟨true, someFields⟩ : DecodeResult) ∧
      (emptyIsValid 3).sinks 0 = (emptyIsValid 3).sinks 5 := by decide
theorem witness_HaltEntryDoesExactlyThis : State.reset.halted = false ∧ haltedBlock.halted = true := by
  decide
theorem witness_StepKeepsMachineInv :
    step (present [0x200] State.reset) = .next haltedBlock := rfl
theorem witness_StepKeepsTheTraceWellFormed : TraceInv State.reset :=
  ⟨fun h => (nomatch h), fun _ => ⟨0, Nat.le_refl 0, rfl⟩⟩
theorem witness_TraceOnlyGrowsUntilReset :
    step (present [0x200] State.reset) = .next haltedBlock ∧
      decode (portWord (present [0x200] State.reset)) ≠ .reset ∧
      decode (portWord (present [0x400] haltedBlock)) = .reset := ⟨rfl, by decide, by decide⟩
theorem witness_RingRealizesTheWindow :
    (RingBuffer.mk [9, 9, 9, 9] 2 0).wf 4 = true ∧ (RingBuffer.mk [9, 9, 9, 9] 3 4).wf 4 = true := by
  decide
theorem witness_ShiftRegistersRealizeTheWindow :
    (ShiftReg.mk [9, 9, 9, 9] 0).wf 4 = true ∧ (ShiftReg.mk [9, 9, 9, 9] 4).wf 4 = true := by decide
theorem witness_BlindVariantMissesFillPhaseMatches :
    (ShiftReg.mk (List.replicate 256 0) 0).wf 256 = true ∧ pattern.length = 17 ∧
      (paddedPattern 255).length = 255 ∧ (paddedPattern 255).take 17 = Params.reference.pat := by
  decide +kernel
theorem witness_StreamTraceIsItsMatches : sinksAccept (emptyIsValid 3) :=
  fun _ => (by decide : conOk (3 : BitVec 2) = true ∧ logOk (3 : BitVec 2) = true)
theorem witness_FrameAfterResetIsDelivered :
    (emptyIsValid 3).params = Params.reference ∧ [1, 1, 1, 1, 1, 1].length = 6 ∧
      23 + ([] : List Symbol).length ≤ 256 ∧ 23 + (List.replicate 233 (0 : Symbol)).length ≤ 256 := by
  decide +kernel
theorem witness_ParametersOutsideTheConditions :
    (Params.mk 1 [1, 0] 6).cap < (Params.mk 1 [1, 0] 6).patLen ∧ ([] : Window).length ≤ 1 := by decide
theorem witness_PushedSymbolIsTheLowByteUnchanged :
    (0x1FF : CmdWord).getLsbD 10 = false ∧ (0x1FF : CmdWord).getLsbD 9 = false ∧
      (0x1FF : CmdWord).getLsbD 8 = true ∧ (holding [1]).len ≤ 1 ∧ 2 ≤ (0x02 : Symbol).toNat := by decide
theorem witness_NothingOfTheBlockSurvivesReset :
    haltedBlock.cmds = State.reset.cmds ∧ haltedBlock.draws = State.reset.draws := by decide
theorem witness_StatusPortsShowTheState :
    step (present [0x101] State.reset) = .next (holding [1]) := rfl

end Sys2Proof.Tests
end

/-! The parameter conditions (00_scope.md R9, 93_implementation_defined.md U16). -/
namespace Sys2Proof.Scope
open Sys2Proof Sys2Proof.Machine

/-- The two reasons of `Params.problem` are the only ones: nothing is said about `P > N` (U16). -/
theorem problem_eq_none_iff (p : Params) : p.problem = none ↔ p.cap ≠ 0 ∧ p.patLen ≠ 0 := by
  unfold Params.problem
  split
  next hcap => simp [hcap]
  next hcap =>
    split
    next hpat => simp [hpat]
    next hpat => simp [hcap, hpat]

/-- Well-formed parameters are those of 00_scope.md R9. -/
theorem params_wf_iff (p : Params) : p.wf = true ↔ 1 ≤ p.cap ∧ 1 ≤ p.patLen := by
  rw [Params.wf, beq_iff_eq, problem_eq_none_iff, Nat.one_le_iff_ne_zero, Nat.one_le_iff_ne_zero]

theorem reference_wf : Params.reference.wf = true :=
  (params_wf_iff _).2 (by decide)

/-- A window that fits its capacity still fits it after a push, so it is too short for the pattern and
CHECK is the short-buffer case (41_sync_matcher.md R85). -/
theorem check_pushWindow_of_cap_lt_patLen (p : Params) (w : Window) (x : Symbol)
    (hlong : p.cap < p.patLen) (hw : w.length ≤ p.cap) : check p (pushWindow p.cap w x) = false := by
  have hfits : (pushWindow p.cap w x).length ≤ p.cap := by
    rw [pushWindow_length _ _ _ hw]
    exact Nat.min_le_right _ _
  exact check_short p _ (Nat.lt_of_le_of_lt hfits hlong)

/-- Settles O49, which follows U16 where U15 and U16 differ (log 9): the two conditions decide
well-formedness, and a longer pattern always meets a short buffer. -/
theorem parametersOutsideTheConditions : Obligations.ParametersOutsideTheConditions :=
  ⟨reference_wf, params_wf_iff, check_pushWindow_of_cap_lt_patLen⟩

end Sys2Proof.Scope

/-! The state, its invariants and what every step keeps of them (10_state.md). -/
namespace Sys2Proof.StateLaws
open Sys2Proof Sys2Proof.Machine

/-! What a step can do, and what STEP does to each field. -/

/-- A step that answers `t` ran one of four things on the rest of the state: a restart, an accepted `FAIL`,
nothing (`NOP`, or a `FAIL` that is not accepted), or STEP of the symbol pushed. -/
theorem step_next_cases {s t : State} (h : step s = .next t) :
    (decode (portWord s) = .reset ∧ t = restart (takeWord s)) ∨
    (decode (portWord s) = .fail ∧ ready s = true ∧ t = raiseHalt .eSrc (takeWord s)) ∨
    (decode (portWord s) = .fail ∧ ready s = false ∧ t = takeWord s) ∨
    (decode (portWord s) = .nop ∧ t = takeWord s) ∨
    (∃ x, operand (decode (portWord s)) = some x ∧ t = stepSym Config.env x (takeWord s)) := by
  rw [step_eq] at h
  rcases exec_cases (decode (portWord s)) (takeWord s) with
    ⟨hi, he⟩ | ⟨hi, hr, he⟩ | ⟨hi, hr, he⟩ | ⟨hi, he⟩ | ⟨x, hx, he⟩
  all_goals rw [he] at h; cases h
  · exact .inl ⟨hi, rfl⟩
  · exact .inr (.inl ⟨hi, hr, rfl⟩)
  · exact .inr (.inr (.inl ⟨hi, hr, rfl⟩))
  · exact .inr (.inr (.inr (.inl ⟨hi, rfl⟩)))
  · exact .inr (.inr (.inr (.inr ⟨x, hx, rfl⟩)))

/-- STEP on a ready block pushes its symbol, whatever the dispatch answers (40_window.md R72). -/
theorem stepSym_win_total (e : Env) (x : Symbol) {s : State} (h : ready s = true) :
    (stepSym e x s).win = pushWindow e.params.cap s.win x ∧
      (stepSym e x s).total = s.total + 1 := by
  rcases stepSym_cases e x s h with
    ⟨_, ht⟩ | ⟨_, _, ht⟩ | ⟨_, _, _, ht⟩ | ⟨_, _, _, _, ht⟩ | ⟨_, _, _, _, ht⟩
  all_goals rw [ht]; exact ⟨rfl, rfl⟩

/-- STEP on a ready block halts it with `E_SINK` or leaves it running (60_exceptions.md R129). -/
theorem stepSym_halted_err (e : Env) (x : Symbol) {s : State} (h : ready s = true) :
    ((stepSym e x s).halted = false ∧ (stepSym e x s).err = s.err) ∨
      ((stepSym e x s).halted = true ∧ (stepSym e x s).err = .eSink) := by
  obtain ⟨_, hrun⟩ := (ready_iff s).1 h
  rcases stepSym_cases e x s h with
    ⟨_, ht⟩ | ⟨_, _, ht⟩ | ⟨_, _, _, ht⟩ | ⟨_, _, _, _, ht⟩ | ⟨_, _, _, _, ht⟩
  · rw [ht]; exact .inl ⟨hrun, rfl⟩
  · rw [ht]; exact .inl ⟨hrun, rfl⟩
  · rw [ht]; exact .inr ⟨rfl, rfl⟩
  · rw [ht]; exact .inr ⟨rfl, rfl⟩
  · rw [ht]; exact .inl ⟨hrun, rfl⟩

/-- STEP is back in the phase it started from: DISP is left within the step (10_state.md R23). -/
@[simp] theorem stepSym_phase (e : Env) (x : Symbol) (s : State) :
    (stepSym e x s).phase = s.phase := by
  cases hr : ready s
  case false => rw [stepSym_of_not_ready e x hr]
  case true =>
    rcases stepSym_cases e x s hr with
      ⟨_, ht⟩ | ⟨_, _, ht⟩ | ⟨_, _, _, ht⟩ | ⟨_, _, _, _, ht⟩ | ⟨_, _, _, _, ht⟩
    all_goals rw [ht]

/-- STEP appends at most `CAND`, `REPORT` and one of `LOG` and `HALT` to the trace
(43_dispatch.md R111). -/
theorem stepSym_out (e : Env) (x : Symbol) (s : State) :
    ∃ evs, (stepSym e x s).out = s.out ++ evs ∧ evs.length ≤ 3 := by
  cases hr : ready s
  case false => exact ⟨[], by rw [stepSym_of_not_ready e x hr, List.append_nil], Nat.zero_le 3⟩
  case true =>
    rcases stepSym_cases e x s hr with
      ⟨_, ht⟩ | ⟨_, _, ht⟩ | ⟨_, _, _, ht⟩ | ⟨_, _, _, _, ht⟩ | ⟨_, _, _, _, ht⟩
    · exact ⟨[], by rw [ht, List.append_nil], Nat.zero_le 3⟩
    all_goals rw [ht]; exact ⟨_, rfl, by simp⟩

/-! The state invariant, operation by operation. -/

/-- Between steps the block is ready exactly when it is not halted (43_dispatch.md R119). -/
theorem ready_eq_not_halted {s : State} (h : MachineInv s) : ready s = !s.halted := by
  obtain ⟨hphase, _, _⟩ := h
  simp [ready, hphase]

/-- A running block holds at most 256 symbols (10_state.md R15). -/
theorem len_le_of_running {s : State} (h : MachineInv s) (hrun : s.halted = false) :
    s.len ≤ 256 := by
  obtain ⟨_, _, hlen⟩ := h
  calc s.len = min 256 s.total := hlen hrun
    _ ≤ 256 := Nat.min_le_left _ _

/-- The invariant does not speak of the words still to come. -/
theorem machineInv_takeWord {s : State} (h : MachineInv s) : MachineInv (takeWord s) := h

theorem machineInv_restart (s : State) : MachineInv (restart s) :=
  ⟨rfl, by simp, fun _ => rfl⟩

/-- A halt with a cause other than `E_NONE` keeps `halted` and `err` in agreement
(10_state.md R25). -/
theorem machineInv_raiseHalt {c : ErrCause} (hc : c ≠ .eNone) {s : State}
    (hrun : s.halted = false) : MachineInv (raiseHalt c s) := by
  rw [raiseHalt_of_running c hrun]
  exact ⟨rfl, iff_of_true rfl hc, fun h => (nomatch h)⟩

/-- STEP keeps the invariant: the fill count and the count of arrivals advance together
(10_state.md R16), and the one way to halt sets the cause with the flag. -/
theorem machineInv_stepSym {e : Env} (hcap : e.params.cap = 256) (x : Symbol) {s : State}
    (h : MachineInv s) : MachineInv (stepSym e x s) := by
  cases hr : ready s
  case false => rwa [stepSym_of_not_ready e x hr]
  case true =>
    obtain ⟨hphase, hrun⟩ := (ready_iff s).1 hr
    obtain ⟨hwin, htotal⟩ := stepSym_win_total e x hr
    obtain ⟨_, hflag, hlen⟩ := h
    refine ⟨by rw [stepSym_phase, hphase], ?_, fun _ => ?_⟩
    · rcases stepSym_halted_err e x hr with ⟨hh, herr⟩ | ⟨hh, herr⟩
      · rw [hh, herr, ← hflag, hrun]
      · rw [hh, herr]
        exact iff_of_true rfl (fun hc => (nomatch hc))
    · have hs : s.win.length = min 256 s.total := hlen hrun
      rw [hwin, htotal, hcap, pushWindow_length _ _ _ (by omega)]
      omega

/-- Settles O36, operation by operation. -/
theorem stepKeepsMachineInv : Obligations.StepKeepsMachineInv := by
  intro s t hinv hstep
  have hinv' : MachineInv (takeWord s) := machineInv_takeWord hinv
  rcases step_next_cases hstep with
    ⟨_, rfl⟩ | ⟨_, hr, rfl⟩ | ⟨_, _, rfl⟩ | ⟨_, rfl⟩ | ⟨x, _, rfl⟩
  · exact machineInv_restart _
  · obtain ⟨_, hrun⟩ := (ready_iff (takeWord s)).1 hr
    exact machineInv_raiseHalt (by decide) hrun
  · exact hinv'
  · exact hinv'
  · exact machineInv_stepSym rfl x hinv'

/-! The window and the stream. -/

/-- A push command makes the stream its symbol longer. -/
theorem streamAfter_of_operand {i : Instr} {x : Symbol} (hx : operand i = some x)
    (h : List Symbol) : streamAfter i h = h ++ [x] := by
  cases i with
  | reset => cases hx
  | fail => cases hx
  | nop => cases hx
  | push0 => cases hx; rfl
  | push1 => cases hx; rfl
  | pushx y => cases hx; rfl

/-- A halted block's window is not observable, so it agrees with every stream
(60_exceptions.md R132). -/
theorem holdsStream_of_halted {s : State} (hh : s.halted = true) (h : List Symbol) :
    HoldsStream s h := by
  intro hrun
  rw [hh] at hrun
  cases hrun

/-- Between steps a block that is not ready is a halted one. -/
theorem holdsStream_of_not_ready {s : State} (hinv : MachineInv s) (hr : ready s = false)
    (h : List Symbol) : HoldsStream s h := by
  rw [ready_eq_not_halted hinv, Bool.not_eq_false'] at hr
  exact holdsStream_of_halted hr h

/-- STEP on a ready block takes agreement with a stream to agreement with the stream one symbol longer
(10_state.md R16, 40_window.md R72). -/
theorem holdsStream_stepSym {e : Env} (hcap : e.params.cap = 256) (x : Symbol) {s : State}
    {h : List Symbol} (hr : ready s = true) (hs : HoldsStream s h) :
    HoldsStream (stepSym e x s) (h ++ [x]) := by
  intro _
  obtain ⟨_, hrun⟩ := (ready_iff s).1 hr
  obtain ⟨hwin, htotal⟩ := hs hrun
  obtain ⟨hwin', htotal'⟩ := stepSym_win_total e x hr
  constructor
  · rw [hwin', hcap, hwin, pushWindow_lastN]
  · rw [htotal', htotal, List.length_append, List.length_singleton]

/-- Settles O21: a step that halts the block or finds it halted leaves nothing to compare, and each other
command does to the window what it does to the stream. -/
theorem stepKeepsTheWindowLaw : Obligations.StepKeepsTheWindowLaw := by
  intro s t h hinv hs hstep
  have hinv' : MachineInv (takeWord s) := machineInv_takeWord hinv
  rcases step_next_cases hstep with
    ⟨hi, rfl⟩ | ⟨_, _, rfl⟩ | ⟨_, hr, rfl⟩ | ⟨hi, rfl⟩ | ⟨x, hx, rfl⟩
  · rw [hi]
    exact fun _ => ⟨rfl, rfl⟩
  · exact holdsStream_of_halted (raiseHalt_halted _ _) _
  · exact holdsStream_of_not_ready hinv' hr _
  · have hnop : streamAfter .nop h = h := List.append_nil h
    rw [hi, hnop]
    exact hs
  · rw [streamAfter_of_operand hx]
    cases hr : ready (takeWord s)
    case true => exact holdsStream_stepSym rfl x hr hs
    case false =>
      rw [stepSym_of_not_ready _ _ hr]
      exact holdsStream_of_not_ready hinv' hr _

/-! The trace. -/

/-- Settles O39: at most three events come from STEP, one from an accepted `FAIL`, none from a command
without effect. -/
theorem traceOnlyGrowsUntilReset : Obligations.TraceOnlyGrowsUntilReset := by
  intro s t hstep
  rcases step_next_cases hstep with
    ⟨hi, rfl⟩ | ⟨hi, hr, rfl⟩ | ⟨hi, _, rfl⟩ | ⟨hi, rfl⟩ | ⟨x, hx, rfl⟩
  · exact ⟨fun hne => absurd hi hne, fun _ => rfl⟩
  · obtain ⟨_, hrun⟩ := (ready_iff (takeWord s)).1 hr
    rw [raiseHalt_of_running .eSrc hrun, hi]
    exact ⟨fun _ => ⟨[.halt .eSrc], rfl, by simp⟩, fun h => (nomatch h)⟩
  · rw [hi]
    exact ⟨fun _ => ⟨[], by simp, Nat.zero_le 3⟩, fun h => (nomatch h)⟩
  · rw [hi]
    exact ⟨fun _ => ⟨[], by simp, Nat.zero_le 3⟩, fun h => (nomatch h)⟩
  · refine ⟨fun _ => stepSym_out Config.env x (takeWord s), fun hi => ?_⟩
    rw [hi] at hx
    cases hx

/-! The status ports. -/

/-- The status ports of `p` are those of the state `t` (10_state.md R26; the moment is log 12). -/
structure ShowsStatus (p : Ports) (t : State) : Prop where
  ready : p.ready = Machine.ready t
  len : p.len = BitVec.ofNat 9 t.len
  halted : p.halted = t.halted
  err : p.err = t.err.code

theorem quietPorts_showsStatus (t : State) : ShowsStatus (quietPorts t) t :=
  ⟨rfl, rfl, rfl, rfl⟩

/-- A match changes no status port. -/
theorem matchPorts_showsStatus (e : Env) (S : List Symbol) (ok : BitVec 2) (t : State) :
    ShowsStatus (matchPorts e S ok t) t :=
  ⟨rfl, rfl, rfl, rfl⟩

theorem symOutputs_showsStatus (e : Env) (x : Symbol) (s : State) :
    ShowsStatus (symOutputs e x s) (stepSym e x s) := by
  unfold symOutputs
  dsimp only
  split
  · exact matchPorts_showsStatus _ _ _ _
  · exact quietPorts_showsStatus _

/-- Every command shows the status of the state it answers. -/
theorem outputs_showsStatus {i : Instr} {s t : State} (h : exec i s = .next t) :
    ShowsStatus (outputs Config.env i s) t := by
  cases i with
  | reset => cases h; exact ⟨rfl, rfl, rfl, rfl⟩
  | fail => cases h; exact quietPorts_showsStatus _
  | nop => cases h; exact quietPorts_showsStatus _
  | push0 => cases h; exact symOutputs_showsStatus _ _ _
  | push1 => cases h; exact symOutputs_showsStatus _ _ _
  | pushx x => cases h; exact symOutputs_showsStatus _ _ _

/-- Code 3 is reserved (60_exceptions.md R126). -/
theorem errCode_ne_three (c : ErrCause) : c.code ≠ 3 := by
  cases c with
  | eNone => decide
  | eSrc => decide
  | eSink => decide

/-- Settles O50: the state after the step meets the invariant, which gives `ready` and a fill count that
fits the nine bits of its port. -/
theorem statusPortsShowTheState : Obligations.StatusPortsShowTheState := by
  intro s t hinv hstep
  have hinv' : MachineInv t := stepKeepsMachineInv s t hinv hstep
  have hshow : ShowsStatus (stepOutputs s) t := outputs_showsStatus hstep
  refine ⟨hshow.halted, hshow.err, ?_, ?_, fun hrun => ?_⟩
  · rw [hshow.err]
    exact errCode_ne_three _
  · rw [hshow.ready]
    exact ready_eq_not_halted hinv'
  · have hfits : t.len ≤ 256 := len_le_of_running hinv' hrun
    rw [hshow.len, BitVec.toNat_ofNat]
    exact Nat.mod_eq_of_lt (by omega)

/-! Reading a cell, and the reset state. -/

theorem readCell_of_lt {s : State} {i : Nat} (h : i < s.win.length) :
    readCell s i = .ok s.win[i] := by
  simp [readCell, h]

theorem readCell_of_le {s : State} {i : Nat} (h : s.win.length ≤ i) :
    readCell s i = .error (.cellHoldsNoValue i) := by
  simp [readCell, h]

/-- Settles O11, on the two sides of `len`. -/
theorem cellsBeyondLenHoldNoValue : Obligations.CellsBeyondLenHoldNoValue :=
  fun _ _ => ⟨readCell_of_lt, readCell_of_le⟩

/-- Settles O10: with `len = 0` every cell is beyond it. -/
theorem resetStateValues : Obligations.ResetStateValues :=
  ⟨rfl, fun i => readCell_of_le (Nat.zero_le i), rfl, rfl, rfl, rfl, rfl⟩

/-- The reset state is one that a restart answers (70_reset_and_hazards.md R152). -/
theorem reset_eq_restart : State.reset = restart State.reset := rfl

theorem machineInv_reset : MachineInv State.reset := by
  rw [reset_eq_restart]
  exact machineInv_restart _

/-- No event has happened, so the trace is idle at arrival 0. -/
theorem traceInv_reset : TraceInv State.reset :=
  ⟨fun h => (nomatch h), fun _ => ⟨0, Nat.le_refl 0, rfl⟩⟩

theorem holdsStream_reset : HoldsStream State.reset [] :=
  fun _ => ⟨rfl, rfl⟩

/-- Settles O37, one invariant at a time. -/
theorem invariantsHoldAtReset : Obligations.InvariantsHoldAtReset :=
  ⟨machineInv_reset, traceInv_reset, holdsStream_reset⟩

end Sys2Proof.StateLaws

/-! The realizations of the window: the ring, the two shift registers and the blind variant
(20_memory.md R40 to R42). -/
namespace Sys2Proof.Realizations
open Sys2Proof Sys2Proof.Machine

/-! The abstract window under a sequence of operations. -/

/-- PUSH with the eviction before the append: what the realizations do (20_memory.md R40, R41). -/
theorem pushWindow_eq_append {cap : Nat} {w : Window} (x : Symbol) (hcap : 1 ≤ cap)
    (h : w.length ≤ cap) : pushWindow cap w x = w.drop (w.length + 1 - cap) ++ [x] := by
  rw [pushWindow_eq_drop cap w x h, List.drop_append_of_le_length (by omega)]

/-- Pushes alone take the last `N` symbols of a stream to the last `N` of the longer stream
(10_state.md R16). -/
theorem windowRun_pushes (N : Nat) (h xs : List Symbol) :
    windowRun N (lastN N h) (xs.map .push) = lastN N (h ++ xs) := by
  induction xs generalizing h with
  | nil => rw [List.append_nil]; rfl
  | cons x xs ih =>
    calc windowRun N (lastN N h) ((x :: xs).map .push)
        = windowRun N (pushWindow N (lastN N h) x) (xs.map .push) := rfl
      _ = windowRun N (lastN N (h ++ [x])) (xs.map .push) := by rw [pushWindow_lastN]
      _ = lastN N (h ++ x :: xs) := by rw [ih, List.append_assoc, List.singleton_append]

/-- A window that has not overflowed holds every symbol pushed into it. -/
theorem windowRun_pushes_of_le {N : Nat} {xs : List Symbol} (h : xs.length ≤ N) :
    windowRun N [] (xs.map .push) = xs := by
  calc windowRun N [] (xs.map .push)
      = windowRun N (lastN N []) (xs.map .push) := by rw [lastN_eq_drop, List.drop_nil]
    _ = lastN N xs := windowRun_pushes N [] xs
    _ = xs := by rw [lastN_eq_drop, Nat.sub_eq_zero_of_le h, List.drop_zero]

/-- What makes `run` a realization of the window in states of type `α` read through `snap`
(20_memory.md R42): the two operations, one at a time, on the states that meet `wf`. -/
structure Realizes (N : Nat) {α : Type} (wf : α → Bool) (snap : α → Window) (reset : α → α)
    (push : Symbol → α → α) (run : α → List WindowOp → α) : Prop where
  run_nil : ∀ r, run r [] = r
  run_reset : ∀ r ops, run r (.reset :: ops) = run (reset r) ops
  run_push : ∀ r x ops, run r (.push x :: ops) = run (push x r) ops
  wf_reset : ∀ r, wf r = true → wf (reset r) = true
  wf_push : ∀ x r, wf r = true → wf (push x r) = true
  snap_reset : ∀ r, wf r = true → snap (reset r) = []
  snap_push : ∀ x r, wf r = true → snap (push x r) = pushWindow N (snap r) x

/-- The simulation of 20_memory.md R42, once for every realization: each operation keeps the state in
range and commutes with the snapshot, so a sequence of them does. -/
theorem Realizes.simulates {N : Nat} {α : Type} {wf : α → Bool} {snap : α → Window} {reset : α → α}
    {push : Symbol → α → α} {run : α → List WindowOp → α} (H : Realizes N wf snap reset push run)
    {r : α} (hr : wf r = true) (ops : List WindowOp) :
    wf (run r ops) = true ∧ snap (run r ops) = windowRun N (snap r) ops := by
  induction ops generalizing r with
  | nil =>
    rw [H.run_nil]
    exact ⟨hr, rfl⟩
  | cons op ops ih =>
    cases op with
    | reset =>
      obtain ⟨hwf, hsnap⟩ := ih (H.wf_reset r hr)
      rw [H.run_reset]
      refine ⟨hwf, ?_⟩
      rw [hsnap, H.snap_reset r hr]
      rfl
    | push x =>
      obtain ⟨hwf, hsnap⟩ := ih (H.wf_push x r hr)
      rw [H.run_push]
      refine ⟨hwf, ?_⟩
      rw [hsnap, H.snap_push x r hr]
      rfl

/-! Reading and writing the ring's storage (00_scope.md R10). -/

/-- With the storage of full size a read finds a value in every cell; the default is never used. -/
theorem memRead_eq_map {N : Nat} {mem : List Symbol} (hN : 1 ≤ N) (hmem : mem.length = N) (a n : Nat) :
    memRead N mem a n = (List.range n).map fun k => mem.getD ((a + k) % N) sym0 := by
  rw [memRead, ← List.filterMap_eq_map]
  refine List.filterMap_congr fun k _ => ?_
  have hlt : (a + k) % N < mem.length := by rw [hmem]; exact Nat.mod_lt _ hN
  rw [Function.comp_apply, List.getD_eq_getElem _ _ hlt, List.getElem?_eq_getElem hlt]

theorem memRead_length {N : Nat} {mem : List Symbol} (hN : 1 ≤ N) (hmem : mem.length = N) (a n : Nat) :
    (memRead N mem a n).length = n := by
  rw [memRead_eq_map hN hmem, List.length_map, List.length_range]

/-- A read that leaves out its first `d` cells starts `d` cells later. -/
theorem memRead_drop {N : Nat} {mem : List Symbol} (hN : 1 ≤ N) (hmem : mem.length = N)
    (a n d : Nat) : (memRead N mem a n).drop d = memRead N mem (a + d) (n - d) := by
  rw [memRead_eq_map hN hmem, memRead_eq_map hN hmem]
  refine List.ext_getElem (by simp) fun k _ _ => ?_
  simp [Nat.add_assoc]

/-- Addresses count modulo `N`. -/
theorem memRead_mod (N : Nat) (mem : List Symbol) (a n : Nat) :
    memRead N mem (a % N) n = memRead N mem a n := by
  simp only [memRead, Nat.mod_add_mod]

/-- A read one cell longer ends with that cell. -/
theorem memRead_succ {N : Nat} {mem : List Symbol} {a n : Nat} {x : Symbol}
    (h : mem[(a + n) % N]? = some x) : memRead N mem a (n + 1) = memRead N mem a n ++ [x] := by
  simp [memRead, List.range_succ, h]

/-- A write leaves a read that does not reach its cell as it was. -/
theorem memRead_memWrite_of_ne {N : Nat} (mem : List Symbol) {a n i : Nat} (x : Symbol)
    (h : ∀ k < n, (a + k) % N ≠ i) : memRead N (memWrite mem i x) a n = memRead N mem a n := by
  refine List.filterMap_congr fun k hk => ?_
  exact List.getElem?_set_ne (h k (List.mem_range.1 hk)).symm

/-- Fewer than `N` cells on from the cell `wp` an address is never `wp` again. -/
theorem add_mod_ne {N wp j : Nat} (hwp : wp < N) (hpos : 0 < j) (hj : j < N) : (wp + j) % N ≠ wp := by
  by_cases hwrap : wp + j < N
  · rw [Nat.mod_eq_of_lt hwrap]
    omega
  · rw [Nat.mod_eq_sub_mod (by omega), Nat.mod_eq_of_lt (by omega)]
    omega

/-! The ring. -/

theorem ring_wf_iff {N : Nat} {r : RingBuffer} :
    r.wf N = true ↔ r.mem.length = N ∧ r.wp < N ∧ r.len ≤ N := by
  simp [RingBuffer.wf, and_assoc]

theorem ring_wf_reset {N : Nat} (r : RingBuffer) (h : r.wf N = true) : (ringReset r).wf N = true := by
  obtain ⟨hmem, hwp, _⟩ := ring_wf_iff.1 h
  exact ring_wf_iff.2 ⟨hmem, hwp, Nat.zero_le N⟩

theorem ring_wf_push {N : Nat} (x : Symbol) (r : RingBuffer) (h : r.wf N = true) :
    (ringPush N x r).wf N = true := by
  obtain ⟨hmem, hwp, _⟩ := ring_wf_iff.1 h
  exact ring_wf_iff.2
    ⟨List.length_set.trans hmem, Nat.mod_lt _ (Nat.zero_lt_of_lt hwp), Nat.min_le_right _ _⟩

/-- The snapshot reads the `len` cells before the write pointer (20_memory.md R40). -/
theorem ringSnapshot_eq_memRead (N : Nat) (r : RingBuffer) :
    ringSnapshot N r = memRead N r.mem (r.wp + N - r.len) r.len :=
  memRead_mod N r.mem _ _

/-- The snapshot after a push: the newest cells held, all of them but the one that is overwritten, and then
the symbol (20_memory.md R40). -/
theorem ringSnapshot_push_eq_memRead {N : Nat} (x : Symbol) {r : RingBuffer} (h : r.wf N = true) :
    ringSnapshot N (ringPush N x r) =
      memRead N r.mem (r.wp + N - min r.len (N - 1)) (min r.len (N - 1)) ++ [x] := by
  obtain ⟨hmem, hwp, hlen⟩ := ring_wf_iff.1 h
  obtain ⟨m, hm⟩ : ∃ m, m = min r.len (N - 1) := ⟨_, rfl⟩
  have hcount : min (r.len + 1) N = m + 1 := by omega
  have hstart : (r.wp + 1) % N + N - (m + 1) = (r.wp + 1) % N + (N - (m + 1)) := by omega
  have hnew : (memWrite r.mem r.wp x)[(r.wp + N - m + m) % N]? = some x := by
    rw [Nat.sub_add_cancel (by omega), Nat.add_mod_right, Nat.mod_eq_of_lt hwp]
    exact List.getElem?_set_self (hmem ▸ hwp)
  have hkept : ∀ k < m, (r.wp + N - m + k) % N ≠ r.wp := fun k hk => by
    rw [show r.wp + N - m + k = r.wp + (N - m + k) by omega]
    exact add_mod_ne hwp (by omega) (by omega)
  rw [← hm]
  calc ringSnapshot N (ringPush N x r)
      = memRead N (memWrite r.mem r.wp x) ((r.wp + 1) % N + N - (m + 1)) (m + 1) := by
        rw [ringSnapshot_eq_memRead]
        simp only [ringPush, hcount]
    _ = memRead N (memWrite r.mem r.wp x) (r.wp + N - m) (m + 1) := by
        rw [hstart, ← memRead_mod, Nat.mod_add_mod, memRead_mod]
        congr 1
        omega
    _ = memRead N (memWrite r.mem r.wp x) (r.wp + N - m) m ++ [x] := memRead_succ hnew
    _ = memRead N r.mem (r.wp + N - m) m ++ [x] := by rw [memRead_memWrite_of_ne _ _ hkept]

/-- PUSH on the ring is PUSH on its snapshot, full or not (20_memory.md R40). -/
theorem ringSnapshot_push {N : Nat} (x : Symbol) (r : RingBuffer) (h : r.wf N = true) :
    ringSnapshot N (ringPush N x r) = pushWindow N (ringSnapshot N r) x := by
  obtain ⟨hmem, hwp, hlen⟩ := ring_wf_iff.1 h
  have hN : 1 ≤ N := Nat.zero_lt_of_lt hwp
  have hlength : (ringSnapshot N r).length = r.len := memRead_length hN hmem _ _
  rw [ringSnapshot_push_eq_memRead x h, pushWindow_eq_append x hN (by omega), hlength,
    ringSnapshot_eq_memRead, memRead_drop hN hmem]
  congr 2 <;> omega

theorem ring_realizes (N : Nat) :
    Realizes N (RingBuffer.wf N) (ringSnapshot N) ringReset (ringPush N) (ringRun N) where
  run_nil _ := rfl
  run_reset _ _ := rfl
  run_push _ _ _ := rfl
  wf_reset := ring_wf_reset
  wf_push := ring_wf_push
  snap_reset _ _ := rfl
  snap_push := ringSnapshot_push

/-- Settles O40: the match and the candidate are functions of the snapshot, which the ring simulates. -/
theorem ringRealizesTheWindow : Obligations.RingRealizesTheWindow := by
  intro p r ops _ hr
  obtain ⟨hwf, hsnap⟩ := (ring_realizes p.cap).simulates hr ops
  exact ⟨hwf, hsnap, congrArg (check p) hsnap, congrArg (extract p) hsnap⟩

/-! The shift registers. -/

theorem shift_wf_iff {N : Nat} {r : ShiftReg} : r.wf N = true ↔ r.cells.length = N ∧ r.len ≤ N := by
  simp [ShiftReg.wf]

theorem shift_wf_reset {N : Nat} (r : ShiftReg) (h : r.wf N = true) : (shiftReset r).wf N = true := by
  obtain ⟨hcells, _⟩ := shift_wf_iff.1 h
  exact shift_wf_iff.2 ⟨hcells, Nat.zero_le N⟩

/-- Shifting one symbol in keeps the number of cells. -/
theorem drop_one_append_length {N : Nat} {cells : List Symbol} (x : Symbol) (hN : 1 ≤ N)
    (h : cells.length = N) : (cells.drop 1 ++ [x]).length = N := by
  rw [List.length_append, List.length_drop, List.length_singleton]
  omega

theorem shiftPush_of_lt {N : Nat} (x : Symbol) {r : ShiftReg} (h : r.len < N) :
    shiftPush N x r = { cells := r.cells.set r.len x, len := r.len + 1 } :=
  if_pos h

theorem shiftPush_of_le {N : Nat} (x : Symbol) {r : ShiftReg} (h : N ≤ r.len) :
    shiftPush N x r = { cells := r.cells.drop 1 ++ [x], len := r.len } :=
  if_neg (Nat.not_lt.2 h)

theorem shift_wf_push {N : Nat} (hN : 1 ≤ N) (x : Symbol) (r : ShiftReg) (h : r.wf N = true) :
    (shiftPush N x r).wf N = true := by
  obtain ⟨hcells, hlen⟩ := shift_wf_iff.1 h
  rcases Nat.lt_or_ge r.len N with hlt | hfull
  · rw [shiftPush_of_lt x hlt]
    exact shift_wf_iff.2 ⟨List.length_set.trans hcells, hlt⟩
  · rw [shiftPush_of_le x hfull]
    exact shift_wf_iff.2 ⟨drop_one_append_length x hN hcells, hlen⟩

theorem shiftSnapshot_length {N : Nat} {r : ShiftReg} (h : r.wf N = true) :
    (shiftSnapshot r).length = r.len := by
  obtain ⟨hcells, hlen⟩ := shift_wf_iff.1 h
  exact List.length_take_of_le (hcells ▸ hlen)

/-- PUSH on the shift register is PUSH on its snapshot: below the capacity nothing is evicted, at the
capacity the snapshot is the whole register (20_memory.md R41). -/
theorem shiftSnapshot_push {N : Nat} (hN : 1 ≤ N) (x : Symbol) (r : ShiftReg) (h : r.wf N = true) :
    shiftSnapshot (shiftPush N x r) = pushWindow N (shiftSnapshot r) x := by
  obtain ⟨hcells, hlen⟩ := shift_wf_iff.1 h
  have hlength := shiftSnapshot_length h
  rw [pushWindow_eq_append x hN (by omega), hlength]
  rcases Nat.lt_or_ge r.len N with hlt | hfull
  · rw [shiftPush_of_lt x hlt, Nat.sub_eq_zero_of_le hlt, List.drop_zero]
    simp only [shiftSnapshot]
    rw [List.take_add_one, List.take_set_of_le (Nat.le_refl _), List.getElem?_set_self (hcells ▸ hlt),
      Option.toList_some]
  · have heq : r.len = N := Nat.le_antisymm hlen hfull
    have hwhole : shiftSnapshot r = r.cells := List.take_of_length_le (by omega)
    rw [shiftPush_of_le x hfull, hwhole, heq, Nat.add_sub_cancel_left]
    exact List.take_of_length_le (drop_one_append_length x hN hcells).le

theorem shift_realizes {N : Nat} (hN : 1 ≤ N) :
    Realizes N (ShiftReg.wf N) shiftSnapshot shiftReset (shiftPush N) (shiftRun N) where
  run_nil _ := rfl
  run_reset _ _ := rfl
  run_push _ _ _ := rfl
  wf_reset := shift_wf_reset
  wf_push := shift_wf_push hN
  snap_reset _ _ := rfl
  snap_push := shiftSnapshot_push hN

theorem aligned_wf_push {N : Nat} (hN : 1 ≤ N) (x : Symbol) (r : ShiftReg) (h : r.wf N = true) :
    (alignedPush N x r).wf N = true := by
  obtain ⟨hcells, _⟩ := shift_wf_iff.1 h
  exact shift_wf_iff.2 ⟨drop_one_append_length x hN hcells, Nat.min_le_right _ _⟩

theorem alignedSnapshot_length {N : Nat} {r : ShiftReg} (h : r.wf N = true) :
    (alignedSnapshot N r).length = r.len := by
  obtain ⟨hcells, hlen⟩ := shift_wf_iff.1 h
  rw [alignedSnapshot, List.length_drop]
  omega

/-- With the count at 0 the right-aligned data is empty. -/
theorem alignedSnapshot_of_len_zero {N : Nat} {r : ShiftReg} (h : r.wf N = true) (hlen : r.len = 0) :
    alignedSnapshot N r = [] :=
  List.eq_nil_of_length_eq_zero ((alignedSnapshot_length h).trans hlen)

/-- PUSH on the right-aligned variant is PUSH on its snapshot: the shift moves the held symbols one cell
down, and past cell 0 only when the register is full (20_memory.md R41). -/
theorem alignedSnapshot_push {N : Nat} (hN : 1 ≤ N) (x : Symbol) (r : ShiftReg) (h : r.wf N = true) :
    alignedSnapshot N (alignedPush N x r) = pushWindow N (alignedSnapshot N r) x := by
  obtain ⟨hcells, hlen⟩ := shift_wf_iff.1 h
  have hlength := alignedSnapshot_length h
  rw [pushWindow_eq_append x hN (by omega), hlength]
  simp only [alignedSnapshot, alignedPush]
  rw [List.drop_append_of_le_length (by rw [List.length_drop]; omega), List.drop_drop, List.drop_drop]
  congr 2
  omega

theorem aligned_realizes {N : Nat} (hN : 1 ≤ N) :
    Realizes N (ShiftReg.wf N) (alignedSnapshot N) shiftReset (alignedPush N) (alignedRun N) where
  run_nil _ := rfl
  run_reset _ _ := rfl
  run_push _ _ _ := rfl
  wf_reset := shift_wf_reset
  wf_push := aligned_wf_push hN
  snap_reset r h := alignedSnapshot_of_len_zero (shift_wf_reset r h) rfl
  snap_push := alignedSnapshot_push hN

/-- Settles O41, one register at a time. -/
theorem shiftRegistersRealizeTheWindow : Obligations.ShiftRegistersRealizeTheWindow := by
  intro N r ops hN hr
  obtain ⟨_, hshift⟩ := (shift_realizes hN).simulates hr ops
  obtain ⟨_, haligned⟩ := (aligned_realizes hN).simulates hr ops
  exact ⟨hshift, haligned⟩

/-! The blind variant. -/

/-- Until the register is full the blind variant's matcher answers no match (20_memory.md R41). -/
theorem blindCheck_of_lt {p : Params} {r : ShiftReg} (h : r.len < p.cap) : blindCheck p r = false := by
  simp [blindCheck, Nat.ne_of_lt h]

/-- Settles O42: before it overflows the register holds the whole stream, which begins with the pattern,
and is not full. -/
theorem blindVariantMissesFillPhaseMatches : Obligations.BlindVariantMissesFillPhaseMatches := by
  intro r xs hr hempty _ hfill hpat
  obtain ⟨hwf, hsnap⟩ := (aligned_realizes (by decide)).simulates hr (xs.map .push)
  rw [alignedSnapshot_of_len_zero hr hempty, windowRun_pushes_of_le (by omega)] at hsnap
  have hlen : (alignedRun 256 r (xs.map .push)).len = xs.length := by
    rw [← alignedSnapshot_length hwf, hsnap]
  refine ⟨?_, blindCheck_of_lt ?_⟩
  · rw [hsnap]
    exact (check_iff _ _).2 hpat
  · rw [hlen]
    exact Nat.lt_of_le_of_lt hfill (by decide)

end Sys2Proof.Realizations

/-! The command port (20_memory.md R45, 43_dispatch.md R118). -/
namespace Sys2Proof.CommandPort
open Sys2Proof Sys2Proof.Machine

/-- The words a state already has are the words the environment presents. -/
theorem present_self {s : State} {ws : List CmdWord} (h : s.cmds = ws) : present ws s = s := by
  rw [← h]
  rfl

/-- With no word at the port the step is a `NOP` (60_exceptions.md R135; log 1). -/
theorem step_present_nil (s : State) : step (present [] s) = .next (present [] s) := by
  have hdecode : decode (encode .nop) = .nop := by decide
  calc step (present [] s)
      = exec (decode (encode .nop)) (present [] s) := rfl
    _ = exec .nop (present [] s) := by rw [hdecode]
    _ = .next (present [] s) := rfl

/-- Settles O6, with a word at the port and with none. -/
theorem stepRunsThePresentedCommand : Obligations.StepRunsThePresentedCommand := by
  refine ⟨fun s w ws hcmds => ?_, fun s hcmds => ?_⟩
  · calc step s
        = step (present (w :: ws) s) := by rw [present_self hcmds]
      _ = exec (decode w) { s with cmds := ws } := step_present_cons s w ws
  · calc step s
        = step (present [] s) := by rw [present_self hcmds]
      _ = .next (present [] s) := step_present_nil s
      _ = .next s := by rw [present_self hcmds]

end Sys2Proof.CommandPort

/-! The command words: decode, encode and the rows of the operation map (30_encoding.md R51, R58 to R62). -/
namespace Sys2Proof.Encoding
open Sys2Proof Sys2Proof.Machine

/-! The push commands and the symbol they carry. -/

theorem isBit_eq_false_iff (x : Symbol) : isBit x = false ↔ x ≠ sym0 ∧ x ≠ sym1 := by
  simp [isBit]

/-- A push command is read off its symbol byte and carries it. -/
@[simp] theorem operand_decodeSym (x : Symbol) : operand (decodeSym x) = some x := by
  unfold decodeSym
  split
  next h0 => rw [h0]; rfl
  next =>
    split
    next h1 => rw [h1]; rfl
    next => rfl

/-- The bit symbols have commands of their own, so `PUSHX` gets a byte of 2 or more. -/
theorem decodeSym_wf (x : Symbol) : (decodeSym x).wf = true := by
  unfold decodeSym
  split
  next => rfl
  next h0 =>
    split
    next => rfl
    next h1 => simp [Instr.wf, (isBit_eq_false_iff x).2 ⟨h0, h1⟩]

/-- Among well-formed commands the symbol determines the push command. -/
theorem decodeSym_eq_of_operand {i : Instr} {x : Symbol} (hi : i.wf = true)
    (hx : operand i = some x) : decodeSym x = i := by
  cases i with
  | reset => cases hx
  | fail => cases hx
  | nop => cases hx
  | push0 => cases hx; rfl
  | push1 => cases hx; rfl
  | pushx y =>
    cases hx
    obtain ⟨h0, h1⟩ := (isBit_eq_false_iff x).1 (by simpa [Instr.wf] using hi)
    rw [decodeSym, if_neg h0, if_neg h1]

/-- The canonical word of a push command is `0x100 + hh`, for the bit symbols too. -/
theorem encode_of_operand {i : Instr} {x : Symbol} (hx : operand i = some x) :
    encode i = pushWord x := by
  cases i with
  | reset => cases hx
  | fail => cases hx
  | nop => cases hx
  | push0 => cases hx; decide
  | push1 => cases hx; decide
  | pushx y => cases hx; rfl

/-- No bit of a push word is a don't-care bit. -/
theorem mask_of_operand {i : Instr} {x : Symbol} (hx : operand i = some x) :
    i.mask = BitVec.allOnes 11 := by
  cases i with
  | reset => cases hx
  | fail => cases hx
  | nop => cases hx
  | push0 => decide
  | push1 => decide
  | pushx y => rfl

theorem pushWord_eq_add (x : Symbol) : pushWord x = 0x100 + x.setWidth 11 := by
  have hx : x.toNat < 2 ^ 8 := x.isLt
  apply BitVec.eq_of_toNat_eq
  calc (pushWord x).toNat
      = 1 <<< 8 ||| x.toNat := BitVec.toNat_append _ _
    _ = 0x100 + x.toNat := (Nat.shiftLeft_add_eq_or_of_lt hx 1).symm
    _ = (0x100 + x.setWidth 11 : CmdWord).toNat := by
      have h256 : (0x100 : CmdWord).toNat = 0x100 := rfl
      rw [BitVec.toNat_add, BitVec.toNat_setWidth, h256]
      omega

/-! The fields of a word (30_encoding.md R58). -/

theorem getLsbD_pushWord (x : Symbol) (k : Nat) :
    (pushWord x).getLsbD k = if k < 8 then x.getLsbD k else (1 : BitVec 3).getLsbD (k - 8) :=
  BitVec.getLsbD_append

/-- The push words are the words with tag `001`, told apart by their low byte. -/
theorem eq_pushWord_iff (w : CmdWord) (x : Symbol) :
    w = pushWord x ↔
      rstBit w = false ∧ srcFailBit w = false ∧ symValidBit w = true ∧ symField w = x := by
  constructor
  · rintro rfl
    refine ⟨?_, ?_, ?_, ?_⟩
    · rw [rstBit, getLsbD_pushWord]; rfl
    · rw [srcFailBit, getLsbD_pushWord]; rfl
    · rw [symValidBit, getLsbD_pushWord]; rfl
    · exact BitVec.extractLsb'_append_eq_right
  · rintro ⟨hrst, hfail, hvalid, rfl⟩
    apply BitVec.eq_of_getLsbD_eq
    intro k hk
    rw [getLsbD_pushWord]
    by_cases hlow : k < 8
    · simp [symField, hlow]
    · obtain rfl | rfl | rfl : k = 8 ∨ k = 9 ∨ k = 10 := by omega
      · simpa [symValidBit] using hvalid
      · simpa [srcFailBit] using hfail
      · simpa [rstBit] using hrst

/-- Agreement with `p` under a mask, bit by bit. -/
theorem and_eq_iff_forall_bit (w m p : CmdWord) :
    w &&& m = p ↔ ∀ k : Fin 11, (w.getLsbD k && m.getLsbD k) = p.getLsbD k := by
  constructor
  · rintro rfl k
    rw [BitVec.getLsbD_and]
  · intro h
    apply BitVec.eq_of_getLsbD_eq
    intro k hk
    rw [BitVec.getLsbD_and]
    exact h ⟨k, hk⟩

theorem and_mask_reset_iff (w : CmdWord) :
    w &&& Instr.reset.mask = encode .reset ↔ rstBit w = true := by
  rw [and_eq_iff_forall_bit]
  simp [Fin.forall_fin_succ, Instr.mask, encode, rstBit]

theorem and_mask_fail_iff (w : CmdWord) :
    w &&& Instr.fail.mask = encode .fail ↔ srcFailBit w = true ∧ rstBit w = false := by
  rw [and_eq_iff_forall_bit]
  simp [Fin.forall_fin_succ, Instr.mask, encode, rstBit, srcFailBit]

theorem and_mask_nop_iff (w : CmdWord) :
    w &&& Instr.nop.mask = encode .nop ↔
      symValidBit w = false ∧ srcFailBit w = false ∧ rstBit w = false := by
  rw [and_eq_iff_forall_bit]
  simp [Fin.forall_fin_succ, Instr.mask, encode, rstBit, srcFailBit, symValidBit]

/-! Decoding, by the fields that decide it (30_encoding.md R60). -/

theorem decode_of_rst {w : CmdWord} (hrst : rstBit w = true) : decode w = .reset := by
  simp [decode, hrst]

theorem decode_of_src_fail {w : CmdWord} (hrst : rstBit w = false) (hfail : srcFailBit w = true) :
    decode w = .fail := by
  simp [decode, hrst, hfail]

theorem decode_of_sym_valid {w : CmdWord} (hrst : rstBit w = false) (hfail : srcFailBit w = false)
    (hvalid : symValidBit w = true) : decode w = decodeSym (symField w) := by
  simp [decode, hrst, hfail, hvalid]

theorem decode_of_no_bit {w : CmdWord} (hrst : rstBit w = false) (hfail : srcFailBit w = false)
    (hvalid : symValidBit w = false) : decode w = .nop := by
  simp [decode, hrst, hfail, hvalid]

/-- What a word can decode to: by its three control bits, and for a push by the word itself. -/
theorem decode_cases (w : CmdWord) :
    (rstBit w = true ∧ decode w = .reset) ∨
    (rstBit w = false ∧ srcFailBit w = true ∧ decode w = .fail) ∨
    (rstBit w = false ∧ srcFailBit w = false ∧ symValidBit w = false ∧ decode w = .nop) ∨
    (∃ x, w = pushWord x ∧ decode w = decodeSym x) := by
  cases hrst : rstBit w
  case true => exact .inl ⟨rfl, decode_of_rst hrst⟩
  case false =>
    cases hfail : srcFailBit w
    case true => exact .inr (.inl ⟨rfl, rfl, decode_of_src_fail hrst hfail⟩)
    case false =>
      cases hvalid : symValidBit w
      case false => exact .inr (.inr (.inl ⟨rfl, rfl, rfl, decode_of_no_bit hrst hfail hvalid⟩))
      case true =>
        exact .inr (.inr (.inr ⟨symField w, (eq_pushWord_iff w _).2 ⟨hrst, hfail, hvalid, rfl⟩,
          decode_of_sym_valid hrst hfail hvalid⟩))

@[simp] theorem decode_pushWord (x : Symbol) : decode (pushWord x) = decodeSym x := by
  obtain ⟨hrst, hfail, hvalid, hsym⟩ := (eq_pushWord_iff (pushWord x) x).1 rfl
  rw [decode_of_sym_valid hrst hfail hvalid, hsym]

/-- Every word decodes to a well-formed command (30_encoding.md R59, R62). -/
theorem decode_wf (w : CmdWord) : (decode w).wf = true := by
  rcases decode_cases w with ⟨_, hd⟩ | ⟨_, _, hd⟩ | ⟨_, _, _, hd⟩ | ⟨x, _, hd⟩
  · rw [hd]; rfl
  · rw [hd]; rfl
  · rw [hd]; rfl
  · rw [hd]; exact decodeSym_wf x

/-- A word agrees with the canonical word of its command outside that command's don't-care bits. -/
theorem and_mask_decode (w : CmdWord) : w &&& (decode w).mask = encode (decode w) := by
  rcases decode_cases w with ⟨hrst, hd⟩ | ⟨hrst, hfail, hd⟩ | ⟨hrst, hfail, hvalid, hd⟩ | ⟨x, hw, hd⟩
  · rw [hd]; exact (and_mask_reset_iff w).2 hrst
  · rw [hd]; exact (and_mask_fail_iff w).2 ⟨hfail, hrst⟩
  · rw [hd]; exact (and_mask_nop_iff w).2 ⟨hvalid, hfail, hrst⟩
  · have hx : operand (decode w) = some x := by rw [hd, operand_decodeSym]
    rw [mask_of_operand hx, encode_of_operand hx, BitVec.and_allOnes, hw]

/-- A push command is decoded from its canonical word alone. -/
theorem decode_of_and_mask_push {i : Instr} {x : Symbol} {w : CmdWord} (hi : i.wf = true)
    (hx : operand i = some x) (h : w &&& i.mask = encode i) : decode w = i := by
  rw [mask_of_operand hx, encode_of_operand hx, BitVec.and_allOnes] at h
  rw [h, decode_pushWord, decodeSym_eq_of_operand hi hx]

/-- A word that agrees with the canonical word of a well-formed command outside its don't-care bits
decodes to it. -/
theorem decode_of_and_mask {i : Instr} {w : CmdWord} (hi : i.wf = true)
    (h : w &&& i.mask = encode i) : decode w = i := by
  cases i with
  | reset => exact decode_of_rst ((and_mask_reset_iff w).1 h)
  | fail =>
    obtain ⟨hfail, hrst⟩ := (and_mask_fail_iff w).1 h
    exact decode_of_src_fail hrst hfail
  | nop =>
    obtain ⟨hvalid, hfail, hrst⟩ := (and_mask_nop_iff w).1 h
    exact decode_of_no_bit hrst hfail hvalid
  | push0 => exact decode_of_and_mask_push hi rfl h
  | push1 => exact decode_of_and_mask_push hi rfl h
  | pushx x => exact decode_of_and_mask_push hi rfl h

/-- A canonical word has every don't-care bit clear (30_encoding.md R59). -/
theorem encode_and_mask (i : Instr) : encode i &&& i.mask = encode i := by
  cases i with
  | reset => decide
  | fail => decide
  | nop => decide
  | push0 => decide
  | push1 => decide
  | pushx x => exact BitVec.and_allOnes

/-- Settles O1: a canonical word agrees with itself, so the first part is a case of the third. -/
theorem decodeInvertsEncode : Obligations.DecodeInvertsEncode := by
  refine ⟨fun i hi => decode_of_and_mask hi (encode_and_mask i), decode_wf, fun i w hi => ⟨?_, ?_⟩⟩
  · rintro rfl
    exact and_mask_decode w
  · exact decode_of_and_mask hi

/-! The rows of the operation map (30_encoding.md R59). -/

theorem covers_iff (r : OpcodeRow) (w : CmdWord) : r.covers w = true ↔ w &&& r.mask = r.pattern := by
  simp [OpcodeRow.covers]

/-- Two rows with a word in common agree on the bits that both fix. -/
theorem pattern_and_mask_of_covers {r r' : OpcodeRow} {w : CmdWord} (h : r.covers w = true)
    (h' : r'.covers w = true) : r.pattern &&& r'.mask = r'.pattern &&& r.mask := by
  rw [covers_iff] at h h'
  rw [← h, ← h', BitVec.and_assoc, BitVec.and_assoc, BitVec.and_comm r.mask]

/-- No two rows of the table agree on the bits that both fix. -/
theorem rows_disjoint : ∀ r ∈ opcodeRows, ∀ r' ∈ opcodeRows,
    r.pattern &&& r'.mask = r'.pattern &&& r.mask → r' = r := by decide

/-- A row fixes no don't-care bit of its command. -/
theorem mask_and_row_mask (i : Instr) : ∀ r ∈ opcodeRows, r.mnemonic = i.mnemonic →
    i.mask &&& r.mask = r.mask := by
  cases i with
  | reset => decide
  | fail => decide
  | nop => decide
  | push0 => decide
  | push1 => decide
  | pushx x => exact fun r _ _ => BitVec.allOnes_and

/-- The canonical word of every well-formed command lies in a row of its mnemonic. -/
theorem encodedInItsRow (i : Instr) : Laws.EncodedInItsRow.Statement i := by
  cases i with
  | reset => exact Laws.EncodedInItsRow.reset
  | fail => exact Laws.EncodedInItsRow.fail
  | nop => exact Laws.EncodedInItsRow.nop
  | push0 => exact Laws.EncodedInItsRow.push0
  | push1 => exact Laws.EncodedInItsRow.push1
  | pushx x => exact Laws.EncodedInItsRow.pushx x

theorem exists_row_covers_encode {i : Instr} (hi : i.wf = true) :
    ∃ r ∈ opcodeRows, r.covers (encode i) = true ∧ r.mnemonic = i.mnemonic := by
  obtain ⟨hany, hall⟩ := encodedInItsRow i hi
  obtain ⟨r, hr, hcov⟩ := List.any_eq_true.1 hany
  have hname := List.all_eq_true.1 hall r hr
  rw [hcov] at hname
  exact ⟨r, hr, hcov, by simpa using hname⟩

/-- A row that holds the canonical word of a word's command holds the word. -/
theorem covers_of_covers_encode_decode {r : OpcodeRow} {w : CmdWord} (hr : r ∈ opcodeRows)
    (hname : r.mnemonic = (decode w).mnemonic) (h : r.covers (encode (decode w)) = true) :
    r.covers w = true := by
  rw [covers_iff] at h ⊢
  calc w &&& r.mask
      = w &&& ((decode w).mask &&& r.mask) := by rw [mask_and_row_mask _ r hr hname]
    _ = encode (decode w) &&& r.mask := by rw [← BitVec.and_assoc, and_mask_decode]
    _ = r.pattern := h

/-- Settles O2: a word lies in the row of its command's canonical word, and the rows are disjoint. -/
theorem everyWordSelectsOneRow : Obligations.EveryWordSelectsOneRow := by
  refine ⟨fun w => ?_, rfl, rfl, rfl, rfl, rfl, pushWord_eq_add⟩
  obtain ⟨r, hr, hcov, hname⟩ := exists_row_covers_encode (decode_wf w)
  have hw : r.covers w = true := covers_of_covers_encode_decode hr hname hcov
  exact ⟨r, hr, hw, hname, fun r' hr' hw' =>
    rows_disjoint r hr r' hr' (pattern_and_mask_of_covers hw hw')⟩

/-! What the decoded commands do. -/

/-- Settles O7, read off what a command can do. -/
theorem everyCommandAnswersANextState : Obligations.EveryCommandAnswersANextState := by
  have hexec : ∀ (i : Instr) (s : State), ∃ t, exec i s = .next t := by
    intro i s
    rcases exec_cases i s with ⟨_, h⟩ | ⟨_, _, h⟩ | ⟨_, _, h⟩ | ⟨_, h⟩ | ⟨x, _, h⟩
    all_goals exact ⟨_, h⟩
  refine ⟨hexec, fun s => ?_⟩
  rw [step_eq]
  exact hexec _ _

/-- `FAIL` pushes nothing, accepted or not (30_encoding.md R60, 60_exceptions.md R127). -/
theorem exec_fail_total (s : State) : ∃ t, exec .fail s = .next t ∧ t.total = s.total := by
  refine ⟨_, rfl, ?_⟩
  split
  · exact raiseHalt_total _ _
  · rfl

/-- Settles O3. -/
theorem rstDominatesSrcFailDominatesSymValid : Obligations.RstDominatesSrcFailDominatesSymValid := by
  refine fun w s => ⟨decode_of_rst, fun hrst hfail => ?_⟩
  have hd : decode w = .fail := decode_of_src_fail hrst hfail
  rw [hd]
  exact ⟨rfl, exec_fail_total s⟩

/-- Settles O4, word by word. -/
theorem writtenOutWordsDecode : Obligations.WrittenOutWordsDecode := by
  unfold Obligations.WrittenOutWordsDecode
  decide

/-- The table decoder takes the numbers of eleven bits and refuses the others (log 17). -/
theorem decodeTableWord_of_lt {nbits w : Nat} (h : w % 2 ^ nbits < 2 ^ 11) :
    decodeTableWord nbits w = some (decode (BitVec.ofNat 11 (w % 2 ^ nbits))) := by
  rw [decodeTableWord, decodeBits, if_pos h]

theorem decodeTableWord_of_le {nbits w : Nat} (h : 2 ^ 11 ≤ w % 2 ^ nbits) :
    decodeTableWord nbits w = none := by
  rw [decodeTableWord, decodeBits, if_neg (Nat.not_lt.2 h)]

/-- The word placed at the port is the one the next step runs, on the state as it was. -/
theorem step_withFetchWord (s : State) (nbits w : Nat) :
    step (s.withFetchWord nbits w) = exec (decode (BitVec.ofNat 11 (w % 2 ^ nbits))) s := rfl

/-- Settles O5: a number below `2 ^ 16` is its own sixteen bits. -/
theorem tableWordIsFetchedAndRun : Obligations.TableWordIsFetchedAndRun := by
  refine fun s w => ⟨fun hw => ?_, fun hw hw16 => ?_⟩
  · have hmod : w % 2 ^ 16 = w := Nat.mod_eq_of_lt (by omega)
    refine ⟨?_, ?_⟩
    · rw [decodeTableWord_of_lt (by rwa [hmod]), hmod]
    · rw [step_withFetchWord, hmod]
  · have hmod : w % 2 ^ 16 = w := Nat.mod_eq_of_lt hw16
    exact decodeTableWord_of_le (by rwa [hmod])

/-! The symbol of a push word and the cell it is stored in (30_encoding.md R51). -/

theorem bitval_of_two_le {x : Symbol} (h : 2 ≤ x.toNat) : bitval x = none := by
  have h0 : x ≠ sym0 := by rintro rfl; exact absurd h (by decide)
  have h1 : x ≠ sym1 := by rintro rfl; exact absurd h (by decide)
  rw [bitval, if_neg h0, if_neg h1]

/-- The newest cell after PUSH holds the symbol pushed, evicting or not. -/
theorem pushWindow_getLast? {cap : Nat} {w : Window} (x : Symbol) (hcap : 1 ≤ cap)
    (h : w.length ≤ cap) : (pushWindow cap w x).getLast? = some x := by
  rw [Realizations.pushWindow_eq_append x hcap h, List.getLast?_append, List.getLast?_singleton,
    Option.some_or]

/-- Settles O51. -/
theorem pushedSymbolIsTheLowByteUnchanged : Obligations.PushedSymbolIsTheLowByteUnchanged := by
  refine ⟨fun w hrst hfail hvalid => ?_, fun p x s hcap hlen => pushWindow_getLast? x hcap hlen,
    by decide, by decide, fun x => bitval_of_two_le⟩
  calc operand (decode w)
      = operand (decodeSym (symField w)) := by rw [decode_of_sym_valid hrst hfail hvalid]
    _ = some (w.extractLsb' 0 8) := operand_decodeSym _

/-! The output ports of a push (30_encoding.md R57). -/

theorem symOutputs_of_match {e : Env} {x : Symbol} {s : State} (hr : ready s = true)
    (hc : check e.params (pushWindow e.params.cap s.win x) = true) :
    symOutputs e x s =
      matchPorts e (pushWindow e.params.cap s.win x) (e.sinks s.draws) (stepSym e x s) := by
  simp [symOutputs, snapshot, hr, hc]

theorem symOutputs_of_no_match {e : Env} {x : Symbol} {s : State}
    (hc : check e.params (pushWindow e.params.cap s.win x) = false) :
    symOutputs e x s = quietPorts (stepSym e x s) := by
  simp [symOutputs, snapshot, hc]

/-- Settles O19, by what CHECK finds in the window after the push. -/
theorem pushPortsShowTheStep : Obligations.PushPortsShowTheStep := by
  intro e i x s hx hr S r ok o
  have ho : o = symOutputs e x s := outputs_of_operand e hx s
  refine ⟨fun hmatch => ?_, fun hmiss => ?_⟩
  · have hc : check e.params S = true := (check_iff _ _).2 hmatch
    rw [ho, symOutputs_of_match hr hc]
    exact ⟨rfl, rfl, rfl, rfl, rfl⟩
  · have hc : check e.params S = false := by
      rw [Bool.eq_false_iff]
      exact fun h => hmiss ((check_iff _ _).1 h)
    rw [ho, symOutputs_of_no_match hc]
    exact ⟨rfl, rfl, rfl, rfl, rfl⟩

/-! Chunks (30_encoding.md R66, 43_dispatch.md R114). -/

/-- A run does its first word's command, then the rest. -/
theorem run_cons {s t : State} {w : CmdWord} (ws : List CmdWord) (h : exec (decode w) s = .next t) :
    run s (w :: ws) = run t ws := by
  have hstep : step (present (w :: ws) s) = .next (present ws t) := by
    rw [step_present_cons]
    exact exec_present _ _ _ ws h
  exact core_run_succ ws.length hstep

/-- The word of `PUSH` is the push word of its symbol. -/
@[simp] theorem encode_pushInstr (x : Symbol) : encode (pushInstr x) = pushWord x :=
  encode_of_operand (operand_decodeSym x)

/-- One push word at the head of a run is one STEP. -/
theorem run_push_cons (s : State) (x : Symbol) (ws : List CmdWord) :
    run s (encode (pushInstr x) :: ws) = run (stepSym Config.env x s) ws := by
  have hx : operand (decode (encode (pushInstr x))) = some x := by simp
  exact run_cons ws (exec_of_operand hx s)

theorem run_chunkWords (s : State) (xs : List Symbol) :
    run s (chunkWords xs) = .next (present [] (feed Config.env s xs)) := by
  induction xs generalizing s with
  | nil => exact run_nil s
  | cons x xs ih =>
    calc run s (chunkWords (x :: xs))
        = run (stepSym Config.env x s) (chunkWords xs) := run_push_cons s x (chunkWords xs)
      _ = .next (present [] (feed Config.env s (x :: xs))) := ih _

/-- Settles O46, by induction on the chunk: each push word is one STEP. -/
theorem chunkIsItsPushesInOrder : Obligations.ChunkIsItsPushesInOrder :=
  fun s xs => ⟨run_chunkWords s xs, rfl, fun _ => List.map_append⟩

end Sys2Proof.Encoding

/-! The window over a run: PUSH cell by cell, NOP, and the window law (40_window.md R71, R72, R77). -/
namespace Sys2Proof.WindowRuns
open Sys2Proof Sys2Proof.Machine

/-! PUSH, cell by cell (40_window.md R72). Its window is the old one without its oldest `len + 1 - N` symbols
(none, or one when full), and then the new symbol. -/

/-- A cell that holds a value answers it. -/
theorem readCell_of_getElem? {s : State} {i : Nat} {x : Symbol} (h : s.win[i]? = some x) :
    readCell s i = .ok x := by
  rw [readCell, h]

/-- The symbols that PUSH keeps move down by as many cells as it evicts. -/
theorem readCell_pushSym_kept {p : Params} (x : Symbol) {s : State} {k : Nat} (hcap : 1 ≤ p.cap)
    (hlen : s.len ≤ p.cap) (hk : s.len + 1 - p.cap + k < s.len) :
    readCell (pushSym p x s) k = readCell s (s.len + 1 - p.cap + k) := by
  simp only [State.len] at *
  have hkept : k < (s.win.drop (s.win.length + 1 - p.cap)).length := by
    rw [List.length_drop]
    omega
  rw [StateLaws.readCell_of_lt hk]
  apply readCell_of_getElem?
  calc (pushSym p x s).win[k]?
      = (s.win.drop (s.win.length + 1 - p.cap) ++ [x])[k]? := by
        rw [pushSym_win, Realizations.pushWindow_eq_append x hcap hlen]
    _ = s.win[s.win.length + 1 - p.cap + k]? := by
        rw [List.getElem?_append_left hkept, List.getElem?_drop]
    _ = some s.win[s.win.length + 1 - p.cap + k] := List.getElem?_eq_getElem hk

theorem pushSym_len {p : Params} (x : Symbol) {s : State} (hlen : s.len ≤ p.cap) :
    (pushSym p x s).len = min (s.len + 1) p.cap :=
  pushWindow_length p.cap s.win x hlen

/-- The last cell after PUSH holds the symbol pushed. -/
theorem readCell_pushSym_newest {p : Params} (x : Symbol) {s : State} (hcap : 1 ≤ p.cap)
    (hlen : s.len ≤ p.cap) : readCell (pushSym p x s) (min (s.len + 1) p.cap - 1) = .ok x := by
  rw [← pushSym_len x hlen]
  apply readCell_of_getElem?
  rw [State.len, ← List.getLast?_eq_getElem?]
  exact Encoding.pushWindow_getLast? x hcap hlen

/-- Settles O20: below capacity nothing is evicted, at capacity one symbol is. -/
theorem pushAppendsAndEvictsCellByCell : Obligations.PushAppendsAndEvictsCellByCell := by
  intro p x s hcap hlen t
  have hnewest := readCell_pushSym_newest x hcap hlen
  refine ⟨pushSym_len x hlen, rfl, fun hlt => ⟨fun k hk => ?_, ?_⟩, fun hfull => ⟨fun k hk => ?_, ?_⟩,
    rfl, rfl, rfl, rfl, rfl, rfl⟩
  · have hnone : s.len + 1 - p.cap + k = k := by omega
    have hkept := readCell_pushSym_kept x hcap hlen (hnone.symm ▸ hk)
    rwa [hnone] at hkept
  · rwa [show min (s.len + 1) p.cap - 1 = s.len by omega] at hnewest
  · have hone : s.len + 1 - p.cap + k = k + 1 := by omega
    have hkept := readCell_pushSym_kept (k := k) x hcap hlen (by omega)
    rwa [hone] at hkept
  · rwa [show min (s.len + 1) p.cap - 1 = p.cap - 1 by omega] at hnewest

/-! NOP (40_window.md R71). -/

/-- The words with tag `000` are `NOP`s, whatever their low byte (30_encoding.md R59). -/
theorem decode_zero_append (x : Symbol) : decode ((0 : BitVec 3) ++ x) = .nop := by
  apply Encoding.decode_of_no_bit
  · rw [rstBit, BitVec.getLsbD_append]; rfl
  · rw [srcFailBit, BitVec.getLsbD_append]; rfl
  · rw [symValidBit, BitVec.getLsbD_append]; rfl

theorem exec_nop (s : State) : exec .nop s = .next s := rfl

theorem outputs_nop (e : Env) (s : State) : outputs e .nop s = quietPorts s := rfl

/-- Settles O8: the ports of a NOP are the quiet ones. -/
theorem nopChangesNothing : Obligations.NopChangesNothing := by
  intro x s e
  rw [outputs_nop]
  exact ⟨decode_zero_append x, exec_nop s, rfl, rfl, rfl⟩

/-- Every command word takes the first step of a run to some state, and the run goes on from there. -/
theorem exists_exec_and_run_cons (s : State) (w : CmdWord) :
    ∃ t, exec (decode w) s = .next t ∧ ∀ ws, run s (w :: ws) = run t ws := by
  obtain ⟨hexec, _⟩ := Encoding.everyCommandAnswersANextState
  obtain ⟨t, ht⟩ := hexec (decode w) s
  exact ⟨t, ht, fun ws => Encoding.run_cons ws ht⟩

/-- A NOP at the head of a run may be left out. -/
theorem run_nop_cons {w : CmdWord} (hw : decode w = .nop) (s : State) (ws : List CmdWord) :
    run s (w :: ws) = run s ws := by
  apply Encoding.run_cons
  rw [hw, exec_nop]

/-- Settles O45, by induction on the words: a NOP is left out of both runs, any other word takes both runs to
the same state. -/
theorem nopsAreInvisibleInARun : Obligations.NopsAreInvisibleInARun := by
  intro s ws
  induction ws generalizing s with
  | nil => rfl
  | cons w ws ih =>
    by_cases hw : decode w = .nop
    · rw [run_nop_cons hw, List.filter_cons_of_neg (by simp [hw])]
      exact ih s
    · obtain ⟨t, _, hrun⟩ := exists_exec_and_run_cons s w
      rw [List.filter_cons_of_pos (by simp [hw]), hrun, hrun]
      exact ih t

/-! The window law (40_window.md R77). -/

/-- A command keeps the state invariant and the agreement with the stream: the step laws for the state in
which its word is the one presented. -/
theorem exec_keeps_window_law {s t : State} {h : List Symbol} {w : CmdWord} (hinv : MachineInv s)
    (hs : HoldsStream s h) (hexec : exec (decode w) s = .next t) :
    MachineInv t ∧ HoldsStream t (streamAfter (decode w) h) := by
  have hstep : step (present [w] s) = .next (present [] t) := by
    rw [step_present_cons]
    exact exec_present _ _ _ [] hexec
  exact ⟨StateLaws.stepKeepsMachineInv (present [w] s) (present [] t) hinv hstep,
    StateLaws.stepKeepsTheWindowLaw (present [w] s) (present [] t) h hinv hs hstep⟩

/-- Every run keeps both, for the stream that its words extend. -/
theorem run_keeps_window_law {s t : State} {h : List Symbol} {ws : List CmdWord} (hinv : MachineInv s)
    (hs : HoldsStream s h) (hrun : run s ws = .next t) :
    MachineInv t ∧ HoldsStream t (ws.foldl (fun g w => streamAfter (decode w) g) h) := by
  induction ws generalizing s h with
  | nil =>
    rw [run_nil] at hrun
    cases hrun
    exact ⟨hinv, hs⟩
  | cons w ws ih =>
    obtain ⟨u, hexec, hcons⟩ := exists_exec_and_run_cons s w
    obtain ⟨hinv', hs'⟩ := exec_keeps_window_law hinv hs hexec
    exact ih hinv' hs' (hcons ws ▸ hrun)

/-- Settles O22: the state the run ends in agrees with the stream and meets the invariant, which gives the
fill count. -/
theorem windowLawOverEveryRun : Obligations.WindowLawOverEveryRun := by
  intro s t h ws hinv hs hrun hrunning g
  obtain ⟨⟨_, _, hlen⟩, hstream⟩ := run_keeps_window_law hinv hs hrun
  obtain ⟨hwin, htotal⟩ := hstream hrunning
  exact ⟨hwin, htotal, hlen hrunning⟩

end Sys2Proof.WindowRuns

/-! The sync matcher: CHECK, the comparator row, and the match in stream coordinates (41_sync_matcher.md). -/
namespace Sys2Proof.SyncMatcher
open Sys2Proof Sys2Proof.Machine

/-! CHECK, symbol by symbol (41_sync_matcher.md R86): the snapshot begins with the pattern. -/

theorem check_iff_prefix (p : Params) (S : List Symbol) : check p S = true ↔ p.pat <+: S := by
  rw [check_iff, List.prefix_iff_eq_take, eq_comm, Params.patLen]

/-- The guard `|S| ≥ P` adds nothing: a snapshot too short has no symbol to equal the pattern's last one. -/
theorem check_iff_getElem? (p : Params) (S : List Symbol) :
    check p S = true ↔ ∀ i, i < p.patLen → S[i]? = p.pat[i]? := by
  rw [check_iff_prefix, List.prefix_iff_getElem?, Params.patLen]
  refine forall₂_congr fun i hi => ?_
  rw [List.getElem?_eq_getElem hi]

theorem patLen_le_of_check {p : Params} {S : List Symbol} (h : check p S = true) :
    p.patLen ≤ S.length :=
  ((check_iff_prefix p S).1 h).length_le

/-- Settles O23. -/
theorem checkComparesPositionZero : Obligations.CheckComparesPositionZero := fun p S =>
  ⟨⟨fun h => ⟨patLen_le_of_check h, (check_iff_getElem? p S).1 h⟩,
    fun ⟨_, hsyms⟩ => (check_iff_getElem? p S).2 hsyms⟩, check_iff p S⟩

/-- Settles O43: guard and comparators are the two halves of R86's long form. -/
theorem comparatorRowComputesCheck : Obligations.ComparatorRowComputesCheck := by
  intro p S
  obtain ⟨hlong, _⟩ := checkComparesPositionZero p S
  rw [Bool.eq_iff_iff, hlong]
  simp [comparatorMatch]

/-- Symbols beyond the first `P` have no influence (41_sync_matcher.md R88). -/
theorem check_congr_take {p : Params} {S S' : List Symbol} (h : S.take p.patLen = S'.take p.patLen) :
    check p S = check p S' := by
  rw [check, check, h]

/-- A match stays one when symbols follow. -/
theorem check_append {p : Params} {S : List Symbol} (h : check p S = true) (R : List Symbol) :
    check p (S ++ R) = true :=
  (check_iff_prefix _ _).2 (((check_iff_prefix _ _).1 h).trans (List.prefix_append S R))

/-- CHECK on the stream from index `a` on. -/
theorem check_drop_iff (p : Params) (zs : List Symbol) (a : Nat) :
    check p (zs.drop a) = true ↔ ∀ k, k < p.patLen → zs[a + k]? = p.pat[k]? := by
  simp only [check_iff_getElem?, List.getElem?_drop]

/-! The reference pattern (30_encoding.md R55). -/

theorem isBit_of_mem_reference_pat : ∀ x ∈ Params.reference.pat, isBit x = true := by decide

/-- At every shift from 1 to 14 some symbol of the pattern differs from the one it would lie on. -/
theorem exists_reference_pat_shift_ne : ∀ d < 15, 0 < d →
    ∃ k < 17, d + k < 17 ∧ Params.reference.pat[d + k]? ≠ Params.reference.pat[k]? := by decide

/-- Settles O24: a matching symbol would be one of the pattern's, which are all bit symbols. -/
theorem nonBitSymbolsNeverMatch : Obligations.NonBitSymbolsNeverMatch := by
  refine ⟨fun S i x hi hx hbit => ?_, fun S S' h => check_congr_take h⟩
  rw [Bool.eq_false_iff]
  intro hc
  have hpat : Params.reference.pat[i]? = some x := by
    rw [← (check_iff_getElem? _ _).1 hc i hi, hx]
  rw [isBit_of_mem_reference_pat x (List.mem_of_getElem? hpat)] at hbit
  cases hbit

/-- Two places of one stream where a pattern stands make it agree with itself where they overlap. -/
theorem pat_shift_eq_of_check_drop {p : Params} {zs : List Symbol} {a d k : Nat}
    (h : check p (zs.drop a) = true) (h' : check p (zs.drop (a + d)) = true) (hk : d + k < p.patLen) :
    p.pat[d + k]? = p.pat[k]? := by
  rw [← (check_drop_iff p zs a).1 h (d + k) hk, ← (check_drop_iff p zs (a + d)).1 h' k (by omega),
    Nat.add_assoc]

/-- The reference pattern never stands twice in a stream at a distance below 15 (30_encoding.md R55). -/
theorem fifteen_le_of_check_drop {zs : List Symbol} {a d : Nat}
    (h : check Params.reference (zs.drop a) = true)
    (h' : check Params.reference (zs.drop (a + d)) = true) (hd : 0 < d) : 15 ≤ d := by
  by_contra hlt
  obtain ⟨k, _, hk, hne⟩ := exists_reference_pat_shift_ne d (by omega) hd
  exact hne (pat_shift_eq_of_check_drop h h' hk)

/-! The ports of a push (30_encoding.md R57), first from the window and then from the stream that the block
holds the end of. The push of arrival `T` shows its symbols from index `T -. N` on (41_sync_matcher.md R89). -/

section Push
variable {e : Env} {p : Params} {i : Instr} {x : Symbol} {s : State} {xs : List Symbol}

theorem outputs_matchOut (hx : operand i = some x) (hr : ready s = true) :
    (outputs e i s).matchOut = check e.params (pushWindow e.params.cap s.win x) := by
  rw [outputs_of_operand e hx]
  cases hc : check e.params (pushWindow e.params.cap s.win x)
  · rw [Encoding.symOutputs_of_no_match hc]; rfl
  · rw [Encoding.symOutputs_of_match hr hc]; rfl

theorem outputs_cand (hx : operand i = some x) (hr : ready s = true)
    (hc : check e.params (pushWindow e.params.cap s.win x) = true) :
    (outputs e i s).cand = some (extract e.params (pushWindow e.params.cap s.win x)) := by
  rw [outputs_of_operand e hx, Encoding.symOutputs_of_match hr hc]
  rfl

/-- The snapshot of arrival `T` is the stream from index `T -. N` on (10_state.md R16). -/
theorem pushWindow_of_stream (N : Nat) (xs : List Symbol) (x : Symbol) :
    pushWindow N (lastN N xs) x = (xs ++ [x]).drop (xs.length + 1 - N) := by
  rw [pushWindow_lastN, lastN_eq_drop, List.length_append, List.length_singleton]

theorem matchOut_of_stream (hp : e.params = p) (hx : operand i = some x) (hr : ready s = true)
    (hwin : s.win = lastN p.cap xs) :
    (outputs e i s).matchOut = check p ((xs ++ [x]).drop (xs.length + 1 - p.cap)) := by
  rw [outputs_matchOut hx hr, hp, hwin, pushWindow_of_stream]

/-- The candidate of a match is the stream from index `T -. N + SKIP` on (42_delimiter.md R101). -/
theorem cand_of_stream (hp : e.params = p) (hx : operand i = some x) (hr : ready s = true)
    (hwin : s.win = lastN p.cap xs) (hm : (outputs e i s).matchOut = true) :
    (outputs e i s).cand = some ((xs ++ [x]).drop (xs.length + 1 - p.cap + p.skip)) := by
  rw [outputs_matchOut hx hr] at hm
  rw [outputs_cand hx hr hm, hp, hwin, pushWindow_of_stream, extract, List.drop_drop]

end Push

/-- The match in stream coordinates is the comparator row on the last `N` symbols. -/
theorem matchAt_length (p : Params) (zs : List Symbol) :
    matchAt p zs zs.length = comparatorMatch p (lastN p.cap zs) := by
  simp only [matchAt, comparatorMatch, lastN_eq_drop, List.length_drop, List.getElem?_drop]

/-- Settles O25: both sides are CHECK on the last `N` symbols of the stream with `x`. -/
theorem matchInStreamCoordinates : Obligations.MatchInStreamCoordinates := by
  intro e i x s xs hx hr hwin
  calc (outputs e i s).matchOut
      = check e.params (lastN e.params.cap (xs ++ [x])) := by
        rw [outputs_matchOut hx hr, hwin, pushWindow_lastN]
    _ = comparatorMatch e.params (lastN e.params.cap (xs ++ [x])) :=
        (comparatorRowComputesCheck _ _).symm
    _ = matchAt e.params (xs ++ [x]) (xs.length + 1) := by
        rw [← matchAt_length, List.length_append, List.length_singleton]

/-- Settles O26. While the window fills, the snapshot is the whole stream; at arrival 257 it starts at
index 1, where the pattern cannot stand if it stands at index 0. -/
theorem fillPhaseMatchesRepeat : Obligations.FillPhaseMatchesRepeat := by
  intro e i x s xs hp hx hr hwin
  have hmatch := matchOut_of_stream hp hx hr hwin
  have hzero : xs.length ≤ 255 → xs.length + 1 - Params.reference.cap = 0 :=
    fun hlen => Nat.sub_eq_zero_of_le (Nat.succ_le_succ hlen)
  have hfill (hlen : xs.length ≤ 255) :
      (outputs e i s).matchOut = check Params.reference (xs ++ [x]) := by
    rw [hmatch, hzero hlen, List.drop_zero]
  refine ⟨fun hpat => ?_, fun hother hlen => ?_⟩
  · have hc : check Params.reference (xs ++ [x]) = true := (check_iff _ _).2 hpat
    refine ⟨fun hlen => ?_, fun hlen => ?_⟩
    · have hm := (hfill hlen).trans hc
      refine ⟨hm, ?_⟩
      rw [cand_of_stream hp hx hr hwin hm, hzero hlen]
      rfl
    · rw [hmatch, hlen, Bool.eq_false_iff]
      intro hc'
      exact absurd (fifteen_le_of_check_drop (a := 0) hc hc' Nat.one_pos) (by decide)
  · rw [hfill hlen, Bool.eq_false_iff]
    exact fun hc => hother ((check_iff _ _).1 hc)

/-- Settles O27: at arrival `j + 256` the snapshot starts at index `j`. -/
theorem steadyStateDelivery : Obligations.SteadyStateDelivery := by
  intro e i x s xs j hp hx hr hwin hlen hpat
  have hstart : xs.length + 1 - Params.reference.cap = j := Nat.sub_eq_of_eq_add hlen
  have hm : (outputs e i s).matchOut = true := by
    rw [matchOut_of_stream hp hx hr hwin, hstart]
    exact (check_drop_iff _ _ _).2 hpat
  refine ⟨hm, ?_, ?_⟩
  · rw [cand_of_stream hp hx hr hwin hm, hstart]
    rfl
  · rw [List.length_drop, List.length_append, List.length_singleton]
    omega

/-- Settles O28: the pattern stands in the longer stream at the start of both windows, which are as far apart
as the arrivals. -/
theorem fullWindowMatchesFifteenApart : Obligations.FullWindowMatchesFifteenApart := by
  intro e i j x y s u xs ys hp hx hy hrs hru hlen hs hu hms hmu
  rw [matchOut_of_stream hp hx hrs hs] at hms
  rw [matchOut_of_stream hp hy hru hu] at hmu
  have hstart : xs.length + 1 - 256 ≤ (xs ++ [x]).length := by
    rw [List.length_append, List.length_singleton]
    omega
  have hfirst : check Params.reference
      ((xs ++ x :: ys ++ [y]).drop (xs.length + 1 - 256)) = true := by
    rw [show xs ++ x :: ys ++ [y] = (xs ++ [x]) ++ (ys ++ [y]) by simp,
      List.drop_append_of_le_length hstart]
    exact check_append hms _
  have hsecond : (xs ++ x :: ys).length + 1 - Params.reference.cap =
      xs.length + 1 - 256 + (ys.length + 1) := by
    rw [List.length_append, List.length_cons, show Params.reference.cap = 256 from rfl]
    omega
  rw [hsecond] at hmu
  exact fifteen_le_of_check_drop hfirst hmu (Nat.succ_pos _)

end Sys2Proof.SyncMatcher

/-! The delimiter: the candidate cut from the snapshot of a match, and its length (42_delimiter.md). -/
namespace Sys2Proof.Delimiter
open Sys2Proof Sys2Proof.Machine

/-! EXTRACT (42_delimiter.md R97): the candidate symbol by symbol, and what precedes it. -/

theorem extract_getElem? (p : Params) (S : List Symbol) (i : Nat) :
    (extract p S)[i]? = S[p.skip + i]? :=
  List.getElem?_drop

/-- A snapshot with no symbol after the skipped ones gives the empty candidate. -/
theorem extract_eq_nil_iff (p : Params) (S : List Symbol) : extract p S = [] ↔ S.length ≤ p.skip :=
  List.drop_eq_nil_iff

/-- Whatever `SKIP` symbols stand in front, the candidate is the rest. -/
theorem extract_append_of_length {p : Params} {h : List Symbol} (hlen : h.length = p.skip)
    (b : List Symbol) : extract p (h ++ b) = b :=
  List.drop_left' hlen

/-- CHECK reads the first `P` symbols only, so what follows them may be exchanged. -/
theorem check_append_congr {p : Params} {a : List Symbol} (hlen : a.length = p.patLen)
    (r r' : List Symbol) : check p (a ++ r) = check p (a ++ r') :=
  SyncMatcher.check_congr_take ((List.take_left' hlen).trans (List.take_left' hlen).symm)

/-- Settles O29. The symbols agree at every index, also beyond the candidate's end. -/
theorem extractIsTheTailAfterSkip : Obligations.ExtractIsTheTailAfterSkip :=
  ⟨rfl, fun p S => ⟨rfl, extract_length p S, rfl, fun i _ => extract_getElem? p S i,
    (extract_eq_nil_iff p S).2⟩⟩

/-- Settles O31: pattern and gap together are the `SKIP` symbols in front of `b`, and the gap lies beyond the
first `P`. -/
theorem skippedSymbolsAreNotExamined : Obligations.SkippedSymbolsAreNotExamined := by
  intro a b g g' ha hg hg'
  have hskip {u : List Symbol} (hu : u.length = 6) : (a ++ u).length = Params.reference.skip := by
    rw [List.length_append, ha, hu]
    rfl
  refine ⟨?_, extract_append_of_length (hskip hg) b, extract_append_of_length (hskip hg') b⟩
  rw [List.append_assoc, List.append_assoc]
  exact check_append_congr ha _ _

/-! The candidate's length after a push (42_delimiter.md R99). -/

theorem candLen_pushWindow (p : Params) {w : Window} (x : Symbol) (hw : w.length ≤ p.cap) :
    candLen p (pushWindow p.cap w x) = min (w.length + 1) p.cap - p.skip := by
  rw [candLen, pushWindow_length _ _ _ hw]

theorem candLen_pushWindow_le (p : Params) {w : Window} (x : Symbol) (hw : w.length ≤ p.cap) :
    candLen p (pushWindow p.cap w x) ≤ p.candMax := by
  rw [candLen_pushWindow p x hw]
  exact Nat.sub_le_sub_right (Nat.min_le_right _ _) _

/-- A push into a full window leaves it full, so its candidate has the greatest length. -/
theorem candLen_pushWindow_of_full (p : Params) {w : Window} (x : Symbol) (hw : w.length = p.cap) :
    candLen p (pushWindow p.cap w x) = p.candMax := by
  rw [candLen_pushWindow p x hw.le, hw, Nat.min_eq_right (Nat.le_succ _), Params.candMax]

theorem outputs_candLen {e : Env} {i : Instr} {x : Symbol} {s : State} (hx : operand i = some x)
    (hr : ready s = true) (hc : check e.params (pushWindow e.params.cap s.win x) = true) :
    (outputs e i s).candLen =
      some (BitVec.ofNat 8 (candLen e.params (pushWindow e.params.cap s.win x))) := by
  rw [outputs_of_operand e hx, Encoding.symOutputs_of_match hr hc]
  rfl

/-- Settles O30: `CANDMAX = 233` is below `2^8`, so the port keeps the length whole. -/
theorem candidateLengthFitsItsPort : Obligations.CandidateLengthFitsItsPort := by
  intro e i x s hp hx hr hw hm
  rw [SyncMatcher.outputs_matchOut hx hr] at hm
  have hcand := SyncMatcher.outputs_cand hx hr hm
  have hport := outputs_candLen hx hr hm
  rw [hp] at hcand hport
  have hle : candLen Params.reference (pushWindow Params.reference.cap s.win x) ≤ 233 :=
    candLen_pushWindow_le Params.reference x hw
  refine ⟨_, _, hcand, hport, ?_, ?_, fun hfull => ?_⟩
  · rw [BitVec.toNat_ofNat, extract_length]
    exact Nat.mod_eq_of_lt (Nat.lt_of_le_of_lt hle (by decide))
  · rw [extract_length]
    exact hle
  · rw [extract_length]
    exact candLen_pushWindow_of_full Params.reference x hfull

end Sys2Proof.Delimiter

/-! DISPATCH and STEP in closed form, the output trace, and runs over words and streams (43_dispatch.md). -/
namespace Sys2Proof.Dispatching
open Sys2Proof Sys2Proof.Machine

/-! DISPATCH in closed form (43_dispatch.md R111, R113, 60_exceptions.md R129): what it does,
as a function of the decoder's answer and of the sinks' answer. -/

/-- The sinks decide that the block halts: the result is valid and one of them fails. -/
def sinkFails (r : DecodeResult) (ok : BitVec 2) : Bool := r.valid && !(conOk ok && logOk ok)

/-- The events of one dispatch, in order. -/
def dispatchEvents (T : Nat) (c : List Symbol) (r : DecodeResult) (ok : BitVec 2) : List Event :=
  .cand T c ::
    (if r.valid then
      (if conOk ok then
        .report r.fields :: (if logOk ok then [.log r.fields] else [.halt .eSink])
      else [.halt .eSink])
    else [])

/-- The state after one dispatch of a running block. -/
def dispatched (T : Nat) (c : List Symbol) (r : DecodeResult) (ok : BitVec 2) (s : State) : State :=
  { s with
    halted := s.halted || sinkFails r ok
    err := if sinkFails r ok then .eSink else s.err
    phase := if sinkFails r ok then .acc else s.phase
    draws := s.draws + (if r.valid then 1 else 0)
    out := s.out ++ dispatchEvents T c r ok }

theorem dispatch_eq_dispatched (e : Env) (T : Nat) (c : List Symbol) {s : State}
    (hrun : s.halted = false) :
    dispatch e T c s = dispatched T c (e.dec c) (e.sinks s.draws) s := by
  rcases dispatch_cases e T c s hrun with
    ⟨hv, h⟩ | ⟨hv, hcon, h⟩ | ⟨hv, hcon, hlog, h⟩ | ⟨hv, hcon, hlog, h⟩
  · rw [h]; simp [dispatched, sinkFails, dispatchEvents, hv]
  · rw [h]; simp [dispatched, sinkFails, dispatchEvents, hv, hcon]
  · rw [h]; simp [dispatched, sinkFails, dispatchEvents, hv, hcon, hlog]
  · rw [h]; simp [dispatched, sinkFails, dispatchEvents, hv, hcon, hlog]

section Dispatched
variable {T : Nat} {c : List Symbol} {r : DecodeResult} {ok : BitVec 2} {s : State}

@[simp] theorem dispatched_win : (dispatched T c r ok s).win = s.win := rfl
@[simp] theorem dispatched_total : (dispatched T c r ok s).total = s.total := rfl
@[simp] theorem dispatched_halted :
    (dispatched T c r ok s).halted = (s.halted || sinkFails r ok) := rfl
@[simp] theorem dispatched_err :
    (dispatched T c r ok s).err = if sinkFails r ok then .eSink else s.err := rfl
@[simp] theorem dispatched_cmds : (dispatched T c r ok s).cmds = s.cmds := rfl
@[simp] theorem dispatched_draws :
    (dispatched T c r ok s).draws = s.draws + (if r.valid then 1 else 0) := rfl
@[simp] theorem dispatched_out :
    (dispatched T c r ok s).out = s.out ++ dispatchEvents T c r ok := rfl

theorem sinkFails_of_accept (hcon : conOk ok = true) (hlog : logOk ok = true) :
    sinkFails r ok = false := by
  simp [sinkFails, hcon, hlog]

/-- An invalid result leaves its candidate event alone in the trace (43_dispatch.md R112). -/
theorem dispatched_of_invalid (h : r.valid = false) : dispatched T c r ok s = emit (.cand T c) s := by
  simp [dispatched, sinkFails, dispatchEvents, emit, h]

/-- Within STEP the phase is DISP during the dispatch and ACC after it (43_dispatch.md R107). -/
theorem setPhase_acc_dispatch (e : Env) (hphase : s.phase = .acc) (hrun : s.halted = false) :
    setPhase .acc (dispatch e T c (setPhase .disp s)) =
      dispatched T c (e.dec c) (e.sinks s.draws) s := by
  have hdispatch : dispatch e T c (setPhase .disp s) =
      dispatched T c (e.dec c) (e.sinks s.draws) (setPhase .disp s) :=
    dispatch_eq_dispatched e T c hrun
  rw [hdispatch]
  simp [dispatched, setPhase, hphase]

/-- The candidate event with the report and the log row of a valid result. -/
def deliveryEvents (e : Env) (T : Nat) (c : List Symbol) : List Event :=
  .cand T c :: (if (e.dec c).valid then [.report (e.dec c).fields, .log (e.dec c).fields] else [])

/-- With accepting sinks a valid result is reported and logged. -/
theorem dispatchEvents_of_accept {e : Env} (hcon : conOk ok = true) (hlog : logOk ok = true) :
    dispatchEvents T c (e.dec c) ok = deliveryEvents e T c := by
  simp [dispatchEvents, deliveryEvents, hcon, hlog]

end Dispatched

/-- Settles O32, read off the closed form for each answer of the sinks. -/
theorem dispatchRoutesTheResult : Obligations.DispatchRoutesTheResult := by
  intro e T c s hrun r ok t
  have ht : t = dispatched T c r ok s := dispatch_eq_dispatched e T c hrun
  rw [ht]
  refine ⟨dispatched_of_invalid, fun hv => ⟨?_, rfl, rfl, fun hcon => ?_, fun hcon hlog => ?_,
    fun hcon hlog => ?_⟩⟩
  · simp [hv]
  · simp [sinkFails, dispatchEvents, hv, hcon]
  · simp [sinkFails, dispatchEvents, hv, hcon, hlog]
  · simp [dispatched, sinkFails, dispatchEvents, hv, hcon, hlog, hrun]

/-! STEP on a ready block (43_dispatch.md R107): the push, and on a match the dispatch of the candidate. -/

section Step
variable {e : Env} {x : Symbol} {s : State} {W : Window}

theorem stepSym_of_no_match (hr : ready s = true) (hW : pushWindow e.params.cap s.win x = W)
    (hc : check e.params W = false) : stepSym e x s = pushSym e.params x s := by
  subst hW
  simp [stepSym, checkAndDispatch, snapshot, hr, hc]

theorem stepSym_of_match (hr : ready s = true) (hW : pushWindow e.params.cap s.win x = W)
    (hc : check e.params W = true) :
    stepSym e x s =
      dispatched (s.total + 1) (extract e.params W) (e.dec (extract e.params W)) (e.sinks s.draws)
        (pushSym e.params x s) := by
  subst hW
  obtain ⟨hphase, hrun⟩ := (ready_iff s).1 hr
  calc stepSym e x s
      = checkAndDispatch e (pushSym e.params x s) := if_pos hr
    _ = setPhase .acc (dispatch e (s.total + 1)
          (extract e.params (pushWindow e.params.cap s.win x))
          (setPhase .disp (pushSym e.params x s))) := if_pos hc
    _ = _ := setPhase_acc_dispatch e hphase hrun

/-- With accepting sinks STEP does not halt the block, and a match delivers its candidate. -/
theorem stepSym_of_accept (hr : ready s = true) (hW : pushWindow e.params.cap s.win x = W)
    (hcon : conOk (e.sinks s.draws) = true) (hlog : logOk (e.sinks s.draws) = true) :
    (stepSym e x s).halted = false ∧ (stepSym e x s).out =
      s.out ++
        (if check e.params W then deliveryEvents e (s.total + 1) (extract e.params W) else []) := by
  obtain ⟨_, hrun⟩ := (ready_iff s).1 hr
  cases hc : check e.params W
  case false =>
    rw [stepSym_of_no_match hr hW hc]
    exact ⟨hrun, (List.append_nil _).symm⟩
  case true =>
    rw [stepSym_of_match hr hW hc, dispatched_halted, sinkFails_of_accept hcon hlog, pushSym_halted,
      hrun, dispatched_out, dispatchEvents_of_accept hcon hlog]
    exact ⟨rfl, rfl⟩

end Step

/-- Settles O33: the dispatch of an invalid result is its candidate event, and the two ports are
conjunctions with the result's validity. -/
theorem invalidDecodeIsDroppedSilently : Obligations.InvalidDecodeIsDroppedSilently := by
  intro e x s hr S hc hv
  rw [Encoding.symOutputs_of_match hr hc]
  refine ⟨?_, by simp [matchPorts, S, hv], by simp [matchPorts, S, hv]⟩
  rw [stepSym_of_match hr rfl hc, dispatched_of_invalid hv]
  rfl

/-- CHECK for the reference values, with the pattern written out (30_encoding.md R55). -/
theorem check_reference (S : List Symbol) :
    check Params.reference S =
      decide (S.take 17 = [1, 0, 1, 0, 1, 0, 1, 1, 1, 0, 0, 0, 1, 0, 0, 1, 0]) := rfl

/-- Settles O18, with and without a match. -/
theorem pushCommandDoesTheStep : Obligations.PushCommandDoesTheStep := by
  intro i x s hx hr hlen W r con log hit
  obtain ⟨hphase, hrun⟩ := (ready_iff s).1 hr
  have hW : pushWindow 256 s.win x = W := pushWindow_eq_drop 256 s.win x hlen
  have hhit : check Config.env.params W = hit := check_reference W
  refine ⟨_, exec_of_operand hx s, ?_⟩
  rw [StateLaws.stepSym_phase, hphase]
  cases hc : hit
  case false =>
    rw [stepSym_of_no_match hr hW (hhit.trans hc)]
    exact ⟨fun _ => hW, rfl, rfl, rfl, rfl, hrun, rfl, (List.append_nil _).symm⟩
  case true =>
    rw [stepSym_of_match hr hW (hhit.trans hc)]
    refine ⟨fun _ => hW, rfl, rfl, rfl, rfl, ?_, rfl, rfl⟩
    rw [dispatched_halted, pushSym_halted, hrun, Bool.false_or]
    rfl

/-- Settles O34: both steps push the same symbol into the same window, and on a match dispatch the same
candidate with the same answers. -/
theorem stepDependsOnWindowSymbolAndAnswers : Obligations.StepDependsOnWindowSymbolAndAnswers := by
  intro e e' x s s' hparams hr hr' hwin htotal hdec hsinks
  obtain ⟨_, hrun⟩ := (ready_iff s).1 hr
  obtain ⟨_, hrun'⟩ := (ready_iff s').1 hr'
  obtain ⟨hpush, _⟩ := StateLaws.stepSym_win_total e x hr
  obtain ⟨hpush', _⟩ := StateLaws.stepSym_win_total e' x hr'
  have hW : pushWindow e'.params.cap s'.win x = pushWindow e.params.cap s.win x := by
    rw [hparams, hwin]
  have hsame : (stepSym e x s).win = (stepSym e' x s').win := hpush.trans (hpush'.trans hW).symm
  cases hc : check e.params (pushWindow e.params.cap s.win x)
  case false =>
    have hstep := stepSym_of_no_match hr rfl hc
    have hstep' := stepSym_of_no_match hr' hW (hparams ▸ hc)
    refine ⟨[], ?_, ?_, ?_, fun _ => hsame⟩
    · rw [hstep, pushSym_out, List.append_nil]
    · rw [hstep', pushSym_out, List.append_nil]
    · rw [hstep, hstep', pushSym_halted, pushSym_halted, hrun, hrun']
  case true =>
    have hstep := stepSym_of_match hr rfl hc
    have hstep' := stepSym_of_match hr' hW (hparams ▸ hc)
    rw [← hparams, ← htotal, ← hdec, ← hsinks] at hstep'
    refine ⟨_, congrArg State.out hstep, congrArg State.out hstep', ?_, fun _ => hsame⟩
    rw [hstep, hstep', dispatched_halted, dispatched_halted, pushSym_halted, pushSym_halted, hrun,
      hrun']

/-- Settles O15: at `ready = 0` neither `FAIL` nor STEP is accepted. -/
theorem commandsAtNotReadyHaveNoEffect : Obligations.CommandsAtNotReadyHaveNoEffect := by
  refine fun s => ⟨ready_iff s, fun hr i hi => ⟨s, ?_, rfl, rfl, rfl⟩⟩
  rcases exec_cases i s with ⟨hreset, _⟩ | ⟨_, hready, _⟩ | ⟨_, _, he⟩ | ⟨_, he⟩ | ⟨x, _, he⟩
  · exact absurd hreset hi
  · rw [hr] at hready
    cases hready
  · exact he
  · exact he
  · rw [he, stepSym_of_not_ready _ _ hr]

/-! The output trace (43_dispatch.md R111, 60_exceptions.md R132). -/

/-- A trace is read on from where its first part stands. -/
theorem traceMode_append (dec : List Symbol → DecodeResult) (out evs : List Event) :
    traceMode dec (out ++ evs) = evs.foldl (traceStep dec) (traceMode dec out) :=
  List.foldl_append

/-- A running block meets the trace invariant when its trace is idle at an arrival up to `T`. -/
theorem traceInv_of_running {s : State} {t : Nat} (hrun : s.halted = false) (ht : t ≤ s.total)
    (hmode : traceMode Config.dec s.out = .idle t) : TraceInv s := by
  refine ⟨fun hh => ?_, fun _ => ⟨t, ht, hmode⟩⟩
  rw [hrun] at hh
  cases hh

/-- A halted block meets it when its trace ends in the halt of its cause. -/
theorem traceInv_of_halted {s : State} (hh : s.halted = true)
    (hmode : traceMode Config.dec s.out = .halted s.err) : TraceInv s := by
  refine ⟨fun _ => hmode, fun hrun => ?_⟩
  rw [hh] at hrun
  cases hrun

/-- The events of a dispatch of a later arrival, with a candidate of the length that arrival gives it,
take an idle trace to the halt when a sink fails and to idle at that arrival otherwise. -/
theorem foldl_traceStep_dispatchEvents (dec : List Symbol → DecodeResult) {t0 T : Nat}
    {c : List Symbol} (ok : BitVec 2) (hlater : t0 < T) (hlen : c.length = min 256 T - 23) :
    (dispatchEvents T c (dec c) ok).foldl (traceStep dec) (.idle t0) =
      if sinkFails (dec c) ok then .halted .eSink else .idle T := by
  have hcand : traceStep dec (.idle t0) (.cand T c) =
      if (dec c).valid then .decoded T (dec c).fields else .idle T :=
    if_pos ⟨hlater, hlen⟩
  rw [dispatchEvents, List.foldl_cons, hcand]
  cases hv : (dec c).valid
  case false => simp [sinkFails, hv]
  case true =>
    cases hcon : conOk ok
    case false => simp [sinkFails, traceStep, hv, hcon]
    case true =>
      cases hlog : logOk ok
      case false => simp [sinkFails, traceStep, hv, hcon, hlog]
      case true => simp [sinkFails, traceStep, hv, hcon, hlog]

/-- The candidate of a match at arrival `T` has `min(N, T) -. SKIP` symbols (42_delimiter.md R99). -/
theorem extract_pushWindow_length (p : Params) {w : Window} {n : Nat} (x : Symbol)
    (hw : w.length = min p.cap n) :
    (extract p (pushWindow p.cap w x)).length = min p.cap (n + 1) - p.skip := by
  rw [extract_length, Delimiter.candLen_pushWindow p x (by omega)]
  omega

/-- The dispatch of a later arrival keeps the trace well-formed, whether or not a sink fails. -/
theorem traceInv_dispatched {s : State} {t0 T : Nat} {c : List Symbol} {ok : BitVec 2}
    (hrun : s.halted = false) (hmode : traceMode Config.dec s.out = .idle t0) (hlater : t0 < T)
    (hT : T ≤ s.total) (hlen : c.length = min 256 T - 23) :
    TraceInv (dispatched T c (Config.dec c) ok s) := by
  have hout := foldl_traceStep_dispatchEvents Config.dec ok hlater hlen
  rw [← hmode, ← traceMode_append] at hout
  cases hfail : sinkFails (Config.dec c) ok
  case false =>
    rw [hfail] at hout
    refine traceInv_of_running ?_ hT hout
    rw [dispatched_halted, hrun, hfail, Bool.false_or]
  case true =>
    rw [hfail] at hout
    refine traceInv_of_halted ?_ (hout.trans ?_)
    · rw [dispatched_halted, hfail, Bool.or_true]
    · rw [dispatched_err, hfail]
      rfl

/-- STEP keeps the trace well-formed. -/
theorem traceInv_stepSym (x : Symbol) {s : State} (hinv : MachineInv s) (h : TraceInv s) :
    TraceInv (stepSym Config.env x s) := by
  cases hr : ready s
  case false => rwa [stepSym_of_not_ready _ x hr]
  case true =>
    obtain ⟨_, hrun⟩ := (ready_iff s).1 hr
    obtain ⟨_, _, hlen⟩ := hinv
    obtain ⟨_, hidle⟩ := h
    obtain ⟨t, ht, hmode⟩ := hidle hrun
    cases hc : check Config.env.params (pushWindow Config.env.params.cap s.win x)
    case false =>
      rw [stepSym_of_no_match hr rfl hc]
      exact traceInv_of_running hrun (Nat.le_succ_of_le ht) hmode
    case true =>
      rw [stepSym_of_match hr rfl hc]
      exact traceInv_dispatched hrun hmode (Nat.lt_succ_of_le ht) (Nat.le_refl _)
        (extract_pushWindow_length Params.reference x (hlen hrun))

/-- An accepted `FAIL` ends an idle trace with its `HALT`. -/
theorem traceInv_raiseHalt_eSrc {s : State} (hrun : s.halted = false) (h : TraceInv s) :
    TraceInv (raiseHalt .eSrc s) := by
  obtain ⟨_, hidle⟩ := h
  obtain ⟨t, _, hmode⟩ := hidle hrun
  rw [raiseHalt_of_running .eSrc hrun]
  refine traceInv_of_halted rfl ?_
  rw [traceMode_append, hmode]
  rfl

theorem traceInv_restart (s : State) : TraceInv (restart s) :=
  traceInv_of_running rfl (Nat.le_refl 0) rfl

/-- Settles O38, operation by operation. -/
theorem stepKeepsTheTraceWellFormed : Obligations.StepKeepsTheTraceWellFormed := by
  intro s t hinv h hstep
  have hinv' : MachineInv (takeWord s) := StateLaws.machineInv_takeWord hinv
  have h' : TraceInv (takeWord s) := h
  rcases StateLaws.step_next_cases hstep with
    ⟨_, rfl⟩ | ⟨_, hr, rfl⟩ | ⟨_, _, rfl⟩ | ⟨_, rfl⟩ | ⟨x, _, rfl⟩
  · exact traceInv_restart _
  · obtain ⟨_, hrun⟩ := (ready_iff (takeWord s)).1 hr
    exact traceInv_raiseHalt_eSrc hrun h'
  · exact h'
  · exact h'
  · exact traceInv_stepSym x hinv' h'

/-! Runs (43_dispatch.md R114, R118). -/

/-- A run goes on from the state that its first words lead to. -/
theorem run_append {s t : State} {xs : List CmdWord} (h : run s xs = .next t) (ys : List CmdWord) :
    run s (xs ++ ys) = run t ys := by
  induction xs generalizing s with
  | nil =>
    rw [run_nil] at h
    cases h
    exact (run_present s [] ys).symm
  | cons w ws ih =>
    obtain ⟨u, _, hcons⟩ := WindowRuns.exists_exec_and_run_cons s w
    rw [List.cons_append, hcons]
    exact ih (hcons ws ▸ h)

/-- Every run answers a next state and spends all its words. -/
theorem exists_run (s : State) (ws : List CmdWord) : ∃ t, run s ws = .next t ∧ t.cmds = [] := by
  induction ws generalizing s with
  | nil => exact ⟨_, run_nil s, rfl⟩
  | cons w ws ih =>
    obtain ⟨u, _, hcons⟩ := WindowRuns.exists_exec_and_run_cons s w
    rw [hcons]
    exact ih u

/-- Settles O44. -/
theorem runSplitsAtEveryBoundary : Obligations.RunSplitsAtEveryBoundary := by
  intro s xs ys
  obtain ⟨t, ht, _⟩ := exists_run s xs
  obtain ⟨u, hu, hcmds⟩ := exists_run t ys
  exact ⟨t, u, ht, hu, (run_append ht ys).trans hu, hcmds⟩

/-! A stream from reset with accepting sinks (43_dispatch.md R118). What arrival `T` of a stream appends to
the trace is a matter of its first `T` symbols: of the last `N` of them, as the window holds them. -/

theorem matchAt_append_of_le (p : Params) {xs : List Symbol} {T : Nat} (ys : List Symbol)
    (hT : T ≤ xs.length) : matchAt p (xs ++ ys) T = matchAt p xs T := by
  by_cases hlen : p.patLen ≤ T - (T - p.cap)
  · rw [Bool.eq_iff_iff]
    simp only [matchAt, Bool.and_eq_true, List.all_eq_true, List.mem_range]
    refine and_congr_right fun _ => forall₂_congr fun i hi => ?_
    rw [List.getElem?_append_left (by omega)]
  · simp [matchAt, hlen]

theorem candAt_append_of_le (p : Params) {xs : List Symbol} {T : Nat} (ys : List Symbol)
    (hT : T ≤ xs.length) : candAt p (xs ++ ys) T = candAt p xs T := by
  rw [candAt, candAt, List.take_append_of_le_length hT]

theorem arrivalEvents_append_of_le (e : Env) {xs : List Symbol} {T : Nat} (ys : List Symbol)
    (hT : T ≤ xs.length) : arrivalEvents e (xs ++ ys) T = arrivalEvents e xs T := by
  rw [arrivalEvents, arrivalEvents, matchAt_append_of_le _ ys hT, candAt_append_of_le _ ys hT]

/-- The events of an arrival are those of the stream cut at it. -/
theorem arrivalEvents_take (e : Env) {xs : List Symbol} {T : Nat} (hT : T ≤ xs.length) :
    arrivalEvents e (xs.take T) T = arrivalEvents e xs T := by
  conv_rhs => rw [← List.take_append_drop T xs]
  exact (arrivalEvents_append_of_le e _ (by rw [List.length_take]; omega)).symm

theorem matchAt_length_eq_check (p : Params) (zs : List Symbol) :
    matchAt p zs zs.length = check p (lastN p.cap zs) := by
  rw [SyncMatcher.matchAt_length, SyncMatcher.comparatorRowComputesCheck]

theorem candAt_length_eq_extract (p : Params) (zs : List Symbol) :
    candAt p zs zs.length = extract p (lastN p.cap zs) := by
  rw [candAt, extract, lastN_eq_drop, List.take_length, List.drop_drop]

/-- The last arrival of a stream, by the window it leaves. -/
theorem arrivalEvents_length (e : Env) (zs : List Symbol) :
    arrivalEvents e zs zs.length =
      if check e.params (lastN e.params.cap zs) then
        deliveryEvents e zs.length (extract e.params (lastN e.params.cap zs))
      else [] := by
  rw [← matchAt_length_eq_check, ← candAt_length_eq_extract]
  rfl

/-- The trace of a stream, arrival by arrival. -/
def streamEvents (e : Env) (xs : List Symbol) : List Event :=
  (List.range xs.length).flatMap fun k => arrivalEvents e xs (k + 1)

/-- One more symbol adds the events of one more arrival. -/
theorem streamEvents_concat (e : Env) (xs : List Symbol) (x : Symbol) :
    streamEvents e (xs ++ [x]) =
      streamEvents e xs ++ arrivalEvents e (xs ++ [x]) (xs ++ [x]).length := by
  have hbefore : (List.range xs.length).flatMap (fun k => arrivalEvents e (xs ++ [x]) (k + 1)) =
      streamEvents e xs :=
    List.flatMap_congr fun k hk => arrivalEvents_append_of_le e [x] (List.mem_range.1 hk)
  rw [streamEvents, List.length_append, List.length_singleton, List.range_succ,
    List.flatMap_append, List.flatMap_singleton, hbefore]

/-- Where a block stands that was fed a stream from reset and did not halt. -/
structure FedStream (e : Env) (xs : List Symbol) (s : State) : Prop where
  ready : ready s = true
  win : s.win = lastN e.params.cap xs
  total : s.total = xs.length
  out : s.out = streamEvents e xs

theorem fedStream_reset (e : Env) : FedStream e [] State.reset :=
  ⟨rfl, List.drop_nil.symm, rfl, rfl⟩

/-- STEP with accepting sinks appends the events of its arrival. -/
theorem fedStream_stepSym {e : Env} {xs : List Symbol} {s : State} (hsinks : sinksAccept e)
    (h : FedStream e xs s) (x : Symbol) : FedStream e (xs ++ [x]) (stepSym e x s) := by
  obtain ⟨hcon, hlog⟩ := hsinks s.draws
  obtain ⟨hphase, _⟩ := (ready_iff s).1 h.ready
  obtain ⟨hwin, htotal⟩ := StateLaws.stepSym_win_total e x h.ready
  have hW : pushWindow e.params.cap s.win x = lastN e.params.cap (xs ++ [x]) := by
    rw [h.win, pushWindow_lastN]
  have hcount : s.total + 1 = (xs ++ [x]).length := by
    rw [h.total, List.length_append, List.length_singleton]
  obtain ⟨hrun, hout⟩ := stepSym_of_accept h.ready hW hcon hlog
  refine ⟨(ready_iff _).2 ⟨?_, hrun⟩, hwin.trans hW, htotal.trans hcount, ?_⟩
  · rw [StateLaws.stepSym_phase, hphase]
  · rw [hout, h.out, streamEvents_concat, arrivalEvents_length, hcount]

/-- By induction on the stream, its last symbol last. -/
theorem fedStream_feed {e : Env} (hsinks : sinksAccept e) (xs : List Symbol) :
    FedStream e xs (feed e State.reset xs) := by
  induction xs using List.reverseRecOn with
  | nil => exact fedStream_reset e
  | append_singleton xs x ih =>
    rw [feed, List.foldl_append]
    exact fedStream_stepSym hsinks ih x

/-- Settles O47. -/
theorem streamTraceIsItsMatches : Obligations.StreamTraceIsItsMatches := by
  intro e xs hsinks
  have h := fedStream_feed hsinks xs
  obtain ⟨_, hrun⟩ := (ready_iff _).1 h.ready
  exact ⟨h.out, hrun, h.total⟩

/-! A frame after reset (43_dispatch.md R120): the arrivals of the fill phase of a stream that
begins with the pattern. -/

/-- While the window fills it holds the whole stream. -/
theorem lastN_of_length_le {k : Nat} {xs : List Symbol} (h : xs.length ≤ k) : lastN k xs = xs := by
  rw [lastN_eq_drop, Nat.sub_eq_zero_of_le h, List.drop_zero]

section FillPhase
variable {e : Env} {xs : List Symbol} {T : Nat}

theorem arrivalEvents_of_fill (hT : T ≤ xs.length) (hcap : T ≤ e.params.cap) :
    arrivalEvents e xs T =
      if check e.params (xs.take T) then deliveryEvents e T ((xs.take T).drop e.params.skip)
      else [] := by
  have hlen : (xs.take T).length = T := by rw [List.length_take]; omega
  have h := arrivalEvents_length e (xs.take T)
  rwa [lastN_of_length_le (by omega), hlen, arrivalEvents_take e hT] at h

/-- Before the pattern is complete there is no match (41_sync_matcher.md R85). -/
theorem arrivalEvents_of_lt_patLen (hT : T ≤ xs.length) (hcap : T ≤ e.params.cap)
    (hshort : T < e.params.patLen) : arrivalEvents e xs T = [] := by
  have hlen : (xs.take T).length < e.params.patLen := by rw [List.length_take]; omega
  rw [arrivalEvents_of_fill hT hcap, check_short _ _ hlen]
  rfl

/-- Once the pattern is complete every arrival of the fill phase matches (41_sync_matcher.md R90). -/
theorem arrivalEvents_of_prefix (hpat : e.params.pat <+: xs) (hlong : e.params.patLen ≤ T)
    (hT : T ≤ xs.length) (hcap : T ≤ e.params.cap) :
    arrivalEvents e xs T = deliveryEvents e T ((xs.take T).drop e.params.skip) := by
  have hc : check e.params (xs.take T) = true :=
    (SyncMatcher.check_iff_prefix _ _).2 (List.prefix_take_iff.2 ⟨hpat, hlong⟩)
  rw [arrivalEvents_of_fill hT hcap, hc]
  rfl

end FillPhase

/-- The trace of a stream that begins with the pattern and fits the window, for the reference values:
nothing in the first 16 arrivals, a candidate in each later one. -/
theorem streamEvents_of_prefix {e : Env} {xs : List Symbol} {n : Nat}
    (hp : e.params = Params.reference) (hpat : Params.reference.pat <+: xs)
    (hlen : xs.length = 16 + n) (hfits : xs.length ≤ 256) :
    streamEvents e xs =
      (List.range' 17 n).flatMap fun T => deliveryEvents e T ((xs.take T).drop 23) := by
  have hcap : e.params.cap = 256 := by rw [hp]; rfl
  have hpatLen : e.params.patLen = 17 := by rw [hp]; rfl
  have hskip : e.params.skip = 23 := by rw [hp]; rfl
  have hsplit : List.range' 1 xs.length = List.range' 1 16 ++ List.range' 17 n := by
    rw [hlen, ← List.range'_append_1]
  have hearly : (List.range' 1 16).flatMap (arrivalEvents e xs) = [] := by
    refine List.flatMap_eq_nil_iff.2 fun T hT => ?_
    rw [List.mem_range'_1] at hT
    exact arrivalEvents_of_lt_patLen (by omega) (by omega) (by omega)
  have hlate : (List.range' 17 n).flatMap (arrivalEvents e xs) =
      (List.range' 17 n).flatMap fun T => deliveryEvents e T ((xs.take T).drop 23) := by
    refine List.flatMap_congr fun T hT => ?_
    rw [List.mem_range'_1] at hT
    rw [← hskip]
    exact arrivalEvents_of_prefix (hp ▸ hpat) (by omega) (by omega) (by omega)
  calc streamEvents e xs
      = (List.range' 1 xs.length).flatMap (arrivalEvents e xs) := by
        rw [List.range'_eq_map_range, List.flatMap_map]
        simp only [streamEvents, Nat.add_comm]
    _ = _ := by rw [hsplit, List.flatMap_append, hearly, hlate, List.nil_append]

/-- Settles O48: the last of the arrivals 17 to `23 + L` has the whole frame in the window. -/
theorem frameAfterResetIsDelivered : Obligations.FrameAfterResetIsDelivered := by
  intro e g B hp hsinks hg hfits F
  have hskip : (Params.reference.pat ++ g).length = 23 := by
    rw [List.length_append, hg]
    rfl
  have hlen : F.length = 23 + B.length := by
    rw [show F = Params.reference.pat ++ g ++ B from rfl, List.length_append, hskip]
  have hpat : Params.reference.pat <+: F :=
    (List.prefix_append _ g).trans (List.prefix_append _ B)
  have hbody : (F.take (23 + B.length)).drop 23 = B := by
    rw [← hlen, List.take_length]
    exact List.drop_left' hskip
  have htrace := streamEvents_of_prefix (n := 6 + B.length + 1) hp hpat (by omega) (by omega)
  refine ⟨_, ?_, rfl⟩
  rw [(fedStream_feed hsinks F).out, htrace, List.range'_1_concat, List.flatMap_append,
    List.flatMap_singleton, show 17 + (6 + B.length) = 23 + B.length by omega, hbody]
  rfl

end Sys2Proof.Dispatching

/-! Exceptions: the halt, its two causes and the way out of it (60_exceptions.md). -/
namespace Sys2Proof.Exceptions
open Sys2Proof Sys2Proof.Machine

/-! A block at `ready = 0` (43_dispatch.md R119), of which a halted block is one case. -/

theorem ready_of_halted {s : State} (h : s.halted = true) : ready s = false := by
  simp [ready, h]

/-- The whole state stays, with the window and the model's own fields, and not its observable part alone
(60_exceptions.md R132; the window is log 5). -/
theorem exec_of_not_ready {i : Instr} {s : State} (hr : ready s = false) (hi : i ≠ .reset) :
    exec i s = .next s := by
  rcases exec_cases i s with ⟨hreset, _⟩ | ⟨_, hready, _⟩ | ⟨_, _, he⟩ | ⟨_, he⟩ | ⟨x, _, he⟩
  · exact absurd hreset hi
  · exact absurd hready (Bool.eq_false_iff.1 hr)
  · exact he
  · exact he
  · rw [he, stepSym_of_not_ready _ x hr]

/-- A push that is not accepted shows no match. -/
theorem symOutputs_of_not_ready (e : Env) (x : Symbol) {s : State} (hr : ready s = false) :
    symOutputs e x s = quietPorts s := by
  simp [symOutputs, hr, stepSym_of_not_ready e x hr]

theorem outputs_of_not_ready (e : Env) {i : Instr} {s : State} (hr : ready s = false)
    (hi : i ≠ .reset) : outputs e i s = quietPorts s := by
  cases i with
  | reset => exact absurd rfl hi
  | fail => simp [outputs, hr]
  | nop => rfl
  | push0 => exact symOutputs_of_not_ready e sym0 hr
  | push1 => exact symOutputs_of_not_ready e sym1 hr
  | pushx x => exact symOutputs_of_not_ready e x hr

/-! Halt entry (60_exceptions.md R131). -/

/-- Of the observable part halt entry leaves only the count of arrivals; the window stops being
observable (R132). -/
theorem view_raiseHalt_of_running (c : ErrCause) {s : State} (hrun : s.halted = false) :
    view (raiseHalt c s) = { view s with window := none, halted := true, err := c,
                                         phase := .acc, out := s.out ++ [.halt c] } := by
  rw [raiseHalt_of_running c hrun]
  rfl

/-- Settles O35, on a running block and on a halted one. -/
theorem haltEntryDoesExactlyThis : Obligations.HaltEntryDoesExactlyThis := fun c s =>
  ⟨view_raiseHalt_of_running c, fun hh => by rw [raiseHalt_of_halted c hh], raiseHalt_cmds c s,
    raiseHalt_draws c s⟩

/-! `FAIL` (60_exceptions.md R127). -/

theorem exec_fail_of_ready {s : State} (hr : ready s = true) :
    exec .fail s = .next (raiseHalt .eSrc s) := by
  simp [exec, execFail, hr]

/-- Settles O12: an accepted `FAIL` is the halt entry, and the ports of `FAIL` are quiet. -/
theorem failHaltsAReadyBlock : Obligations.FailHaltsAReadyBlock := by
  intro s e hr
  obtain ⟨_, hrun⟩ := (ready_iff s).1 hr
  refine ⟨⟨_, exec_fail_of_ready hr, ?_⟩, rfl, rfl, rfl⟩
  rw [raiseHalt_of_running .eSrc hrun]
  exact ⟨rfl, rfl, rfl, rfl, rfl, rfl, rfl⟩

/-- Settles O13, which is the model's choice (log 5): `FAIL` keeps the window by halt entry's own frame
or by having no effect. -/
theorem haltedWindowIsKeptByChoice : Obligations.HaltedWindowIsKeptByChoice := by
  refine fun s => ⟨?_, fun hh i hi => ⟨s, exec_of_not_ready (ready_of_halted hh) hi, rfl⟩⟩
  cases hr : ready s
  case false => exact ⟨s, exec_of_not_ready hr (by decide), rfl⟩
  case true => exact ⟨_, exec_fail_of_ready hr, raiseHalt_win .eSrc s⟩

/-! The halted block and the way out (60_exceptions.md R132, R133). -/

theorem exec_reset (s : State) : exec .reset s = .next (restart s) := rfl

/-- Settles O14: a halted block is not ready, and `RESET` is accepted in every state. -/
theorem haltedBlockTakesOnlyReset : Obligations.HaltedBlockTakesOnlyReset := by
  intro s e hh
  have hr : ready s = false := ready_of_halted hh
  refine ⟨fun i hi => ⟨⟨s, exec_of_not_ready hr hi, rfl, rfl, rfl⟩, ?_⟩,
    restart s, exec_reset s, restart_halted s, restart_win s⟩
  rw [outputs_of_not_ready e hr hi]
  exact ⟨hr, rfl, rfl, rfl⟩

/-- Settles O16: every other command leaves the block halted. -/
theorem onlyResetLeavesAHalt : Obligations.OnlyResetLeavesAHalt := by
  intro s t hh hstep hrun
  have hh' : (takeWord s).halted = true := hh
  by_contra hi
  rw [step_eq, exec_of_not_ready (ready_of_halted hh') hi] at hstep
  cases hstep
  rw [hh'] at hrun
  cases hrun

/-- The state after `RESET` is the reset state with the environment's fields put in, the only two of the
old state that it reads. -/
theorem restart_eq_reset_with (s : State) :
    restart s = { State.reset with cmds := s.cmds, draws := s.draws } := rfl

/-- Settles O52: equal environment's fields give equal states after `RESET`. -/
theorem nothingOfTheBlockSurvivesReset : Obligations.NothingOfTheBlockSurvivesReset := by
  refine ⟨fun s s' hcmds hdraws => ?_, fun s hcmds hdraws => ?_⟩
  · rw [exec_reset, exec_reset, restart_eq_reset_with, restart_eq_reset_with, hcmds, hdraws]
  · rw [exec_reset, restart_eq_reset_with, hcmds, hdraws]

/-! The causes of a halt (60_exceptions.md R126). -/

/-- STEP halts a running block only by the sinks' refusal of a valid result (R129). -/
theorem sink_refusal_of_stepSym_halts {e : Env} {x : Symbol} {s : State} (hrun : s.halted = false)
    (hh : (stepSym e x s).halted = true) :
    let S := pushWindow e.params.cap s.win x
    check e.params S = true ∧ (e.dec (extract e.params S)).valid = true ∧
      (conOk (e.sinks s.draws) && logOk (e.sinks s.draws)) = false ∧
      (stepSym e x s).err = .eSink ∧
      ∃ evs, (stepSym e x s).out = s.out ++ evs ++ [.halt .eSink] := by
  intro S
  have hne : (stepSym e x s).halted ≠ s.halted := by rw [hh, hrun]; decide
  cases hr : ready s
  case false => exact absurd (by rw [stepSym_of_not_ready e x hr]) hne
  case true =>
    rcases stepSym_cases e x s hr with
      ⟨_, ht⟩ | ⟨_, _, ht⟩ | ⟨hc, hv, hcon, ht⟩ | ⟨hc, hv, hcon, hlog, ht⟩ | ⟨_, _, _, _, ht⟩
    · exact absurd (by rw [ht]) hne
    · exact absurd (by rw [ht]) hne
    · refine ⟨hc, hv, by rw [hcon, Bool.false_and], by rw [ht],
        [.cand (s.total + 1) (extract e.params S)], ?_⟩
      rw [ht, List.append_assoc]
      rfl
    · refine ⟨hc, hv, by rw [hlog, Bool.and_false], by rw [ht],
        [.cand (s.total + 1) (extract e.params S), .report (e.dec (extract e.params S)).fields], ?_⟩
      rw [ht, List.append_assoc]
      rfl
    · exact absurd (by rw [ht]) hne

/-- Settles O17: of what a step can do, `FAIL` and STEP alone can halt a running block. -/
theorem haltHasOneOfTwoCauses : Obligations.HaltHasOneOfTwoCauses := by
  intro s t hrun hstep hh
  have hrun' : (takeWord s).halted = false := hrun
  rcases StateLaws.step_next_cases hstep with
    ⟨_, rfl⟩ | ⟨hi, _, rfl⟩ | ⟨_, _, rfl⟩ | ⟨_, rfl⟩ | ⟨x, hx, rfl⟩
  · cases hh
  · rw [raiseHalt_of_running .eSrc hrun']
    exact .inl ⟨hi, rfl, rfl⟩
  · exact absurd hh (Bool.eq_false_iff.1 hrun')
  · exact absurd hh (Bool.eq_false_iff.1 hrun')
  · exact .inr ⟨x, hx, sink_refusal_of_stepSym_halts hrun' hh⟩

end Sys2Proof.Exceptions

/-! RESET: process restart (70_reset_and_hazards.md R150). -/
namespace Sys2Proof.ProcessRestart
open Sys2Proof Sys2Proof.Machine

/-- The block accepts symbols again, whatever it was (43_dispatch.md R119). -/
theorem ready_restart (s : State) : ready (restart s) = true :=
  (ready_iff _).2 ⟨restart_phase s, restart_halted s⟩

/-- The ports of `RESET` are quiet but for the candidate length, which reads 0. -/
theorem outputs_reset (e : Env) (s : State) :
    outputs e .reset s = { quietPorts (restart s) with candLen := some 0 } := rfl

/-- Settles O9: `rst` decides the decoding alone, and the state and the ports of `RESET` are those of the
restarted block. -/
theorem resetRestartsTheBlock : Obligations.ResetRestartsTheBlock := by
  intro w s e
  have hlen : (restart s).len = 0 := congrArg List.length (restart_win s)
  refine ⟨Encoding.decode_of_rst,
    ⟨restart s, Exceptions.exec_reset s, hlen, restart_win s, restart_halted s, restart_err s,
      restart_phase s, restart_total s, restart_out s, restart_cmds s, restart_draws s⟩, ?_⟩
  rw [outputs_reset]
  exact ⟨rfl, rfl, rfl, rfl, ready_restart s⟩

end Sys2Proof.ProcessRestart
